-- ==== Sys2Proof/Word.lean ====
section
/-! DEFINITION. The words of the infrared-analyzer CORE: bytes, pulse durations, packets, strengths. -/

namespace Sys2Proof

/-- A byte (spec R11). -/
abbrev Byte := BitVec 8

/-- A pulse duration in microseconds: a natural number, with no wrap-around (spec R9, R150). -/
abbrev Pulse := Nat

/-- A decoded packet: "an ordered sequence of bytes" (spec R15, R68). -/
abbrev Packet := List Byte

/-- A signal strength: an exact rational number in [0,1] (spec R136, D8). -/
abbrev Strength := Rat

/-- `PW`: the width of a duration at a port, in bits (spec R8, D4). -/
abbrev pulseWidth : Nat := 16

end Sys2Proof
end

