-- ==== Sys2Proof/Config.lean ====
section
/-! DEFINITION. The constants of the protocols (spec R8) and the free values: what the spec leaves to the world outside the
core or does not state at all. A free value is an opaque constant: nothing can be proved of what it is. -/

namespace Sys2Proof

/-- What a sink answers to one `SendPulses` call (spec R65). -/
inductive SinkAnswer where
  | success
  | failure
deriving DecidableEq, Repr, Inhabited

namespace Config

/-- `TAG_PRE`: the Tag preamble, mark, space, mark (spec R160). -/
def tagPreamble : List Pulse := [3000, 6000, 3000]
/-- `TAG_MARK`: the first pulse of every Tag data bit (spec R160). -/
def tagMark : Pulse := 2000
/-- `TAG_SP0`: the second pulse of a Tag data bit 0 (spec R160). -/
def tagSpace0 : Pulse := 1000
/-- `TAG_SP1`: the second pulse of a Tag data bit 1 (spec R160). -/
def tagSpace1 : Pulse := 2000
/-- `TAG_ETH`: the error threshold of every Tag decoder (spec R8, R160). -/
def tagEth : Nat := 500
/-- `CRC_HDR_MARK` (spec R191). -/
def crcHeaderMark : Pulse := 4000
/-- `CRC_HDR_SPACE` (spec R191). -/
def crcHeaderSpace : Pulse := 3000
/-- `CRC_BIT0` (spec R191). -/
def crcBit0 : Pulse := 500
/-- `CRC_BIT1` (spec R191). -/
def crcBit1 : Pulse := 1500
/-- `CRC_LEADOUT` (spec R191). -/
def crcLeadOut : Pulse := 5000
/-- `CRC_POLY`: the CRC-8 generator polynomial (spec R8, R197). -/
def crcPoly : Byte := 0x1D#8
/-- `STR_OFFSET`: the offset of the strength formula, exactly 13/10 (spec R8, R136). -/
def strengthOffset : Rat := 13 / 10

/-- DESIGN CHOICE (log entry 12), unsafe: the error threshold of the CRCLP decoders of the block built at reset. The source gives
none (spec R191, D22); 200 is the value of the spec's worked examples. No statement rests on it. -/
def crcEthAtReset : Nat := 200

/-- Free value (log entry 15), safe: what `v / ETH` is in the strength of a recorded margin `v` that is not zero when `ETH` is zero.
R136 shows that no run reaches this and states no value. -/
opaque ratioByZero : Nat → Rat

/-- Free value (log entry 14), safe: the word in which a port of format `fmt` carries a strength (spec R8: `STRENGTH_FMT`, open; D8).
The spec names no format and gives none a word. -/
opaque strengthAtPort : (fmt : Nat) → Strength → Nat

/-- Free value (log entry 10), safe: what sink `k` answers to its `n`-th call once the answers listed in State have run out
(spec R65, U10: "the answer of a sink is an input of the model"). -/
opaque sinkAnswer : Nat → Nat → SinkAnswer

/-- Free value (log entry 8), safe: the pulses queued in source `k` at creation (spec R40: "not specified; whatever the source
hardware holds"). -/
opaque queuedAtCreation : Nat → List Pulse

/-- Free value (log entry 8), safe: the pulses that source `k` gains before each of its coming `NextPulse` calls (spec R64, U14). -/
opaque arrivalsAfterCreation : Nat → List (List Pulse)

end Config

end Sys2Proof
end

