-- ==== Sys2Proof/Syntax.lean ====
section
/-! DEFINITION. Syntax: the operands of an operation, the instructions (one constructor per row of `spec/opcode_table.json`), and the
request in which the host presents an instruction. -/

namespace Sys2Proof

/-- A decoder instance `D`: the decoder of a single-sensor receiver (`R.DEC`, spec R33) or the decoder of sensor `i` of a multi-sensor
receiver (`M.DEC[i]`, spec R34). Receivers are numbered from 0. -/
inductive DecRef where
  | single (r : Nat)
  | sensor (m i : Nat)
deriving DecidableEq, Repr, Inhabited

/-- The data operand of SEND (spec R261): one byte for a TAG transmitter (D27); any other data is a list of bytes. -/
inductive SendData where
  | byte (b : Byte)
  | bytes (bs : List Byte)
deriving DecidableEq, Repr, Inhabited

/-- The instructions: the operations of spec R110 with the operands of R111; the reserved select codes (R112); the rows of the Tag
state map (R96) and of the CRCLP state map (R100), each with the decoder it runs on and the pulse it tests; the tag byte (R91). A row
that stands for several codes holds the bits its pattern leaves open, as `x`. -/
inductive Instr where
  -- the decoder engine, format OP
  | matchOp (d : DecRef) (observed expected : Pulse)
  | wbit (d : DecRef) (b : BitVec 1)
  | drst (d : DecRef) (m : Option Pulse)
  | rdlem (d : DecRef)
  | rdstr (d : DecRef)
  -- the protocols, format OP
  | tdec (d : DecRef) (p : Pulse)
  | tenc (b : Byte)
  | tgpk (team player damage : Int)
  | tgup (b : Byte)
  | cdec (d : DecRef) (p : Pulse)
  | crc8 (bytes : List Byte)
  -- the receivers and the arbiter, format OP
  | recv (r : Nat)
  | mrecv (m : Nat)
  | qbest (m : Nat)
  | qrank (m : Nat)
  | qwmar (m : Nat)
  | qwstr (m : Nat)
  -- the transmitter, format OP
  | send (t : Nat) (data : SendData) (sink : Option Nat)
  -- the reserved select codes, format OP
  | reserved0
  | reserved6 (x : BitVec 1)
  | reserved14 (x : BitVec 1)
  | reserved22 (x : BitVec 1)
  | reserved25
  | reserved26 (x : BitVec 1)
  | reserved28 (x : BitVec 2)
  -- the Tag state map, format TAG_STATE
  | tagS0 (d : DecRef) (p : Pulse)
  | tagS1 (d : DecRef) (p : Pulse)
  | tagS2 (d : DecRef) (p : Pulse)
  | tagS3 (d : DecRef) (p : Pulse)
  | tagS4 (d : DecRef) (p : Pulse)
  | tagS5 (d : DecRef) (p : Pulse)
  | tagS6 (d : DecRef) (p : Pulse)
  | tagS7 (d : DecRef) (p : Pulse)
  | tagS8 (d : DecRef) (p : Pulse)
  | tagS9 (d : DecRef) (p : Pulse)
  | tagS10 (d : DecRef) (p : Pulse)
  | tagS11 (d : DecRef) (p : Pulse)
  | tagS12 (d : DecRef) (p : Pulse)
  | tagS13 (d : DecRef) (p : Pulse)
  | tagS14 (d : DecRef) (p : Pulse)
  | tagS15 (d : DecRef) (p : Pulse)
  | tagS16 (d : DecRef) (p : Pulse)
  | tagS17 (d : DecRef) (p : Pulse)
  | tagOther18 (x : BitVec 1) (d : DecRef) (p : Pulse)
  | tagOther20 (x : BitVec 2) (d : DecRef) (p : Pulse)
  | tagOther24 (x : BitVec 3) (d : DecRef) (p : Pulse)
  | tagOther32 (x : BitVec 5) (d : DecRef) (p : Pulse)
  | tagOther64 (x : BitVec 6) (d : DecRef) (p : Pulse)
  | tagOther128 (x : BitVec 7) (d : DecRef) (p : Pulse)
  -- the CRCLP state map, format CRCLP_STATE
  | crclpS0 (d : DecRef) (p : Pulse)
  | crclpS1 (d : DecRef) (p : Pulse)
  | crclpS2 (d : DecRef) (p : Pulse)
  | crclpOther3 (d : DecRef) (p : Pulse)
  | crclpOther4 (x : BitVec 2) (d : DecRef) (p : Pulse)
  | crclpOther8 (x : BitVec 3) (d : DecRef) (p : Pulse)
  | crclpOther16 (x : BitVec 4) (d : DecRef) (p : Pulse)
  | crclpOther32 (x : BitVec 5) (d : DecRef) (p : Pulse)
  | crclpOther64 (x : BitVec 6) (d : DecRef) (p : Pulse)
  | crclpOther128 (x : BitVec 7) (d : DecRef) (p : Pulse)
  -- the tag byte, format DATA_BYTE
  | tagByte (tt : BitVec 2) (ppp : BitVec 3) (dd : BitVec 2)
deriving DecidableEq, Repr

/-- The four encoding spaces of `spec/opcode_table.json`. DESIGN CHOICE (log entry 3): the same word means different rows in different
spaces, so a request says which space its word belongs to. -/
inductive Format where
  | op
  | tagState
  | crclpState
  | dataByte
deriving DecidableEq, Repr, Inhabited

/-- The operand lines of the host port. DESIGN CHOICE (log entry 1), unsafe: the source encodes no operands (N21); each operand of R111
has a line of its type here, durations `PW` bits wide (D4), and an operation reads the lines of its own operands only. -/
structure Lines where
  dec : DecRef
  unit : Nat
  dur0 : BitVec pulseWidth
  dur1 : BitVec pulseWidth
  optDur : Option (BitVec pulseWidth)
  bit : BitVec 1
  byte : Byte
  bytes : List Byte
  dataIsList : Bool
  int0 : Int
  int1 : Int
  int2 : Int
  sink : Option Nat
deriving DecidableEq, Repr

/-- Every operand line at zero, absent or empty. -/
def Lines.zero : Lines :=
  { dec := .single 0, unit := 0, dur0 := 0, dur1 := 0, optDur := none, bit := 0, byte := 0, bytes := [], dataIsList := false,
    int0 := 0, int1 := 0, int2 := 0, sink := none }

/-- One operation issued by the host (spec R113): an encoding space, the word in it, and the operand lines. -/
structure Request where
  format : Format
  word : Byte
  lines : Lines
deriving DecidableEq, Repr

end Sys2Proof
end

