-- ==== Sys2Proof/Machine/State.lean ====
section
/-! DEFINITION. The state of the machine, its faults and refusals, and the state after reset. State is plain data and holds every
piece of state that `spec/10_state.md` and `spec/20_memory.md` name, the host port and the environment's share. -/

namespace Sys2Proof.Machine

/-- `D.PROTO`: the protocol of a decoder or transmitter, a closed set (spec R10, R21). -/
inductive Protocol where
  | tag
  | crclp
deriving DecidableEq, Repr, Inhabited

/-- A decoder instance `D`: two configuration fields and six state fields (spec R20 to R27). -/
structure Decoder where
  /-- `D.PROTO`, fixed at creation (R21). -/
  proto : Protocol
  /-- `D.ETH`, the error threshold, fixed at creation (R21). -/
  eth : Nat
  /-- `D.STATE`, the protocol step index, 8 bits (R22). -/
  state : BitVec 8
  /-- `D.RBYTES`, the bytes assembled in the packet in progress, unbounded (R23; log entry 17). -/
  rbytes : List Byte
  /-- `D.BITIDX`, the position of the next bit, 3 bits (R24). -/
  bitidx : BitVec 3
  /-- `D.CURBYTE`, the byte being assembled (R25). -/
  curbyte : Byte
  /-- `D.MAXERR`, the largest deviation accepted in the packet in progress (R26). -/
  maxerr : Nat
  /-- `D.LASTERR`, the margin recorded by the latest reset, absent at creation (R27). -/
  lasterr : Option Nat
deriving DecidableEq, Repr

/-- A decoder at creation (spec R40). -/
def Decoder.created (proto : Protocol) (eth : Nat) : Decoder :=
  { proto := proto, eth := eth, state := 0#8, rbytes := [], bitidx := 7#3, curbyte := 0x00#8, maxerr := 0, lasterr := none }

/-- A PulseSource (spec R60 to R64). Log entry 7: a source belongs to the one receiver or sensor it is wired to. -/
structure Source where
  /-- The durations queued now, oldest first (R62). -/
  queue : List Pulse
  /-- The environment's share (R64): element `k` is what lands at the tail of the queue just before the `k`-th coming `NextPulse` call;
  nothing lands after the last element. -/
  arrivals : List (List Pulse)
deriving DecidableEq, Repr

/-- A PulseSink (spec R65, R66). -/
structure Sink where
  /-- The duration lists handed over so far, oldest first (R60 item 3). -/
  handed : List (List Pulse)
  /-- The environment's share (U10; log entry 10): the answers to the coming calls, in order; after them the answers are free. -/
  answers : List SinkAnswer
deriving DecidableEq, Repr

/-- A single-sensor receiver `R` (spec R33). -/
structure Receiver where
  src : Source
  dec : Decoder
deriving DecidableEq, Repr

/-- A present entry of the arbitration snapshot: error margin and signal strength (spec R36). -/
structure SnapEntry where
  margin : Nat
  strength : Strength
deriving DecidableEq, Repr

/-- Sensor `i` of a multi-sensor receiver: `M.SRC[i]`, `M.DEC[i]`, `M.SNAP[i]` (spec R34, R36). -/
structure Sensor where
  src : Source
  dec : Decoder
  snap : Option SnapEntry
deriving DecidableEq, Repr

/-- A multi-sensor receiver `M`; `NSENS` is the number of its sensors (spec R34). -/
structure Multi where
  sensors : List Sensor
deriving DecidableEq, Repr

/-- A transmitter `T`: configuration only (spec R37). `sink` numbers the block's sinks. -/
structure Transmitter where
  proto : Protocol
  sink : Nat
deriving DecidableEq, Repr

/-- The parameters that the model takes as arguments (spec R8). No operation writes them. -/
structure Params where
  /-- `CRC_INIT` (R197, D23). -/
  crcInit : Byte
  /-- `CRC_XOROUT` (R197, D23). -/
  crcXorOut : Byte
  /-- `STRENGTH_FMT`: the number format of a strength at a port (R8, D8), a number that names one of the formats of
  `Config.strengthAtPort` (log entry 14). -/
  strengthFmt : Nat
  /-- `EXPOSE_UOPS`: whether the host port reaches the internal operations (R110, R112, D3). -/
  exposeUops : Bool
deriving DecidableEq, Repr

/-- The reason of a CORRUPT event (spec R198, R279). -/
inductive Corrupt where
  | short
  | crc
deriving DecidableEq, Repr

/-- The errors raised to the caller (spec R270). -/
inductive Raised where
  /-- Cause 4: TGPK's operands outside their ranges (R170, R274). It carries nothing (U11). -/
  | rangeError
  /-- Cause 5: the sink answered failure (R261, R275). -/
  | sinkFailure
  /-- Cause 7: SEND with `PROTO = CRCLP` (R260, R271). -/
  | unencodable
deriving DecidableEq, Repr

/-- The three integer fields of a tag (spec R92). -/
structure TagData where
  team : Int
  player : Int
  damage : Int
deriving DecidableEq, Repr

/-- The result of an operation as its caller receives it (spec R111), or the error raised in its place (R270). -/
inductive Result where
  | unit
  | flag (b : Bool)
  | margin (m : Option Nat)
  | strength (r : Option Strength)
  | packet (k : Option Packet)
  | pulses (seq : List Pulse)
  | byte (b : Byte)
  | tag (t : TagData)
  | sensor (i : Option Nat)
  | ranking (is : List Nat)
  | success
  | raised (e : Raised)
deriving DecidableEq, Repr

/-- What the host receives from one operation: its result, the CORRUPT events beside it, in order (spec R279), and, where the result is a
strength, the word in which the port carries it (`STRENGTH_FMT`, spec R8). -/
structure Response where
  result : Result
  events : List Corrupt
  /-- The word of a present strength at the port; none for every other result (log entry 14). -/
  strengthWord : Option Nat := none
deriving DecidableEq, Repr

/-- The state of the block. -/
structure State where
  /-- The open parameters (R8). -/
  params : Params
  /-- The single-sensor receivers (R33). -/
  receivers : List Receiver
  /-- The multi-sensor receivers (R34). -/
  multis : List Multi
  /-- The transmitters (R37). -/
  transmitters : List Transmitter
  /-- The sinks that the transmitters and the overrides of SEND name (R65). -/
  sinks : List Sink
  /-- The model's own field (log entry 2): the operations the host has issued and the core has not yet executed, oldest first. -/
  requests : List Request
  /-- The model's own field (log entry 6): the answer to the latest operation; none before the first. -/
  response : Option Response
deriving DecidableEq, Repr

/-- The machine stops with no fault: "Nothing in this core is fatal to the process" (spec R270). -/
inductive Fault where
deriving DecidableEq, Repr

/-- Why a step gives no next state. Each is safe: no statement about a next state can be made of such a step. -/
inductive Refusal where
  /-- Raised by exec's arm of an instruction that has no meaning yet. -/
  | notModelled (mnemonic : String)
  /-- Raised by the RESERVED rows: a reserved select code (spec R112: "A model gives such a request no meaning."). -/
  | reservedCode (code : BitVec 5)
  /-- Raised by step: an internal code at the host port while `EXPOSE_UOPS` is 0 (spec R112, D3). -/
  | internalCode (format : Format) (word : Byte)
  /-- Raised by step: the word is no instruction of its format (log entry 1). -/
  | undecodable (format : Format) (word : Byte)
  /-- Raised by an operation on a decoder that the block does not have (log entry 20). -/
  | noSuchDecoder (d : DecRef)
  /-- Raised by an operation on a receiver, multi-sensor receiver or transmitter that the block does not have (log entry 20). -/
  | noSuchUnit (n : Nat)
  /-- Raised by SEND to a sink that the block does not have (log entry 20). -/
  | noSuchSink (k : Nat)
  /-- Raised by a step of one protocol on a decoder of the other (log entry 20; spec R161, R192: the operand's PROTO). -/
  | wrongProtocol (d : DecRef)
  /-- Raised by a row of a state map on a decoder whose STATE does not select the row (log entry 18). -/
  | rowNotSelected (d : DecRef) (row : BitVec 8)
  /-- Raised by SEND on a TAG transmitter with data that is not one byte (log entry 20; spec D27). -/
  | dataIsNoByte
deriving DecidableEq, Repr

/-- Source number `k` at creation: its contents are free values (spec R40; log entry 8). -/
def Source.created (k : Nat) : Source :=
  { queue := Config.queuedAtCreation k, arrivals := Config.arrivalsAfterCreation k }

/-- A sink before the first call (log entry 10). -/
def Sink.created : Sink := { handed := [], answers := [] }

/-- A single-sensor receiver at creation on source number `k`. -/
def Receiver.created (proto : Protocol) (eth k : Nat) : Receiver :=
  { src := Source.created k, dec := Decoder.created proto eth }

/-- A sensor at creation on source number `k`: its snapshot entry is absent (spec R40). -/
def Sensor.created (proto : Protocol) (eth k : Nat) : Sensor :=
  { src := Source.created k, dec := Decoder.created proto eth, snap := none }

/-- The machine right after reset, which is creation (spec R310): every decoder and snapshot at the values of R40. Which units the block
has, and `CRC_ETH`, `CRC_INIT`, `CRC_XOROUT`, `STRENGTH_FMT`, are DESIGN CHOICES (log entries 11, 12 and 14). -/
def State.reset : State :=
  { params := { crcInit := 0x00#8, crcXorOut := 0x00#8, strengthFmt := 0, exposeUops := false }
    receivers := [Receiver.created .tag Config.tagEth 0, Receiver.created .crclp Config.crcEthAtReset 1]
    multis :=
      [{ sensors := [Sensor.created .tag Config.tagEth 2, Sensor.created .tag Config.tagEth 3, Sensor.created .tag Config.tagEth 4] },
        { sensors := [Sensor.created .crclp Config.crcEthAtReset 5, Sensor.created .crclp Config.crcEthAtReset 6] }]
    transmitters := [{ proto := .tag, sink := 0 }, { proto := .crclp, sink := 0 }]
    sinks := [Sink.created, Sink.created]
    requests := []
    response := none }

end Sys2Proof.Machine
end

