-- ==== Sys2Proof/Machine/Flags.lean ====
section
/-! DEFINITION. The one-bit facts that play the part of flags (spec R32), the integer laws they rest on (R150), and the causes (R271).
None is kept in State but the valid bit of LASTERR. -/

namespace Sys2Proof.Machine

/-- `|a - b|` on natural numbers: exact, no wrap (spec R11, R150 item 1). -/
def absDiff (a b : Nat) : Nat := if a ≤ b then b - a else a - b

/-- Flag 1 of R32, the match result: the deviation is strictly below the threshold (spec R130, R131). -/
def matchResult (eth : Nat) (observed expected : Pulse) : Bool := decide (absDiff observed expected < eth)

/-- What one protocol step answers: the decoder after it, the optional packet, and the CORRUPT event if it emits one. -/
structure StepResult where
  dec : Decoder
  packet : Option Packet
  event : Option Corrupt
deriving DecidableEq, Repr

/-- Flag 2 of R32: the step returned a packet. -/
def StepResult.packetProduced (r : StepResult) : Bool := r.packet.isSome

/-- Flag 4 of R32: the CORRUPT event of the step, as the list of events it adds (spec R279). -/
def StepResult.events (r : StepResult) : List Corrupt := r.event.toList

/-- Flag 3 of R32: the valid bit of `LASTERR` (spec R27). -/
def Decoder.lasterrValid (d : Decoder) : Bool := d.lasterr.isSome

/-- The causes of spec R271. -/
inductive Cause where
  | timingMismatch
  | integrityLength
  | integrityChecksum
  | invalidFieldRange
  | sinkWriteFailure
  | invalidState
  | unencodable
deriving DecidableEq, Repr

/-- The numeric code of a cause: a label that no rule reads (spec R271, D16). -/
def Cause.code : Cause → Nat
  | .timingMismatch => 1
  | .integrityLength => 2
  | .integrityChecksum => 3
  | .invalidFieldRange => 4
  | .sinkWriteFailure => 5
  | .invalidState => 6
  | .unencodable => 7

/-- The cause of an error raised to the caller (spec R271). -/
def Raised.cause : Raised → Cause
  | .rangeError => .invalidFieldRange
  | .sinkFailure => .sinkWriteFailure
  | .unencodable => .unencodable

/-- The cause of a CORRUPT event (spec R271). -/
def Corrupt.cause : Corrupt → Cause
  | .short => .integrityLength
  | .crc => .integrityChecksum

end Sys2Proof.Machine
end

