-- ==== Sys2Proof/Machine/Ops.lean ====
section
/-! DEFINITION. The named operations over the decoder record, the sources, the sinks and the host port: the engine's micro-operations
(spec R130, R133, R134), the abort and the errors raised to the caller (R270, R276), `NextPulse`, `SendPulses` and the answers to the
host. -/

namespace Sys2Proof.Machine

/-- `Append(D.RBYTES, b)`: one byte longer, the new last byte being `b` (spec R68). -/
def Decoder.append (d : Decoder) (b : Byte) : Decoder := { d with rbytes := d.rbytes ++ [b] }

/-- MATCH (spec R130): on a true result `MAXERR` takes the deviation in; on a false one nothing is written. -/
def Decoder.matchPulse (d : Decoder) (observed expected : Pulse) : Decoder × Bool :=
  if matchResult d.eth observed expected then
    ({ d with maxerr := max d.maxerr (absDiff observed expected) }, true)
  else (d, false)

/-- WBIT (spec R133): the bit enters `CURBYTE` at `BITIDX`; the eighth bit appends the byte and starts a fresh one. -/
def Decoder.wbit (d : Decoder) (b : BitVec 1) : Decoder :=
  let cur := d.curbyte ||| (b.setWidth 8 <<< d.bitidx.toNat)
  if d.bitidx = 0#3 then
    { d.append cur with curbyte := 0x00#8, bitidx := 7#3 }
  else { d with curbyte := cur, bitidx := d.bitidx - 1#3 }

/-- DRST (spec R134): all six state fields are written; the configuration is not touched. -/
def Decoder.drst (d : Decoder) (m : Option Nat) : Decoder :=
  { d with state := 0#8, rbytes := [], curbyte := 0x00#8, bitidx := 7#3, lasterr := m, maxerr := 0 }

/-- `abort(D)` (spec R276), the machine's only trap-like action: the packet in progress is lost, the threshold is recorded as the
margin, control goes to state 0 of the same protocol. There is no return operation (R283). -/
def Decoder.abort (d : Decoder) : StepResult := { dec := d.drst (some d.eth), packet := none, event := none }

/-- An abort with a CORRUPT event beside it (spec R196, R198, R279). -/
def Decoder.abortCorrupt (d : Decoder) (reason : Corrupt) : StepResult := { d.abort with event := some reason }

/-- `complete(D, pkt)` (spec R114): the reset records the packet's `MAXERR` as its margin. -/
def Decoder.complete (d : Decoder) (pkt : Packet) : StepResult :=
  { dec := d.drst (some d.maxerr), packet := some pkt, event := none }

/-- A step that neither completes nor aborts. -/
def Decoder.goOn (d : Decoder) : StepResult := { dec := d, packet := none, event := none }

/-- `D.STATE <- n` (spec R12, R22). -/
def Decoder.setState (d : Decoder) (n : BitVec 8) : Decoder := { d with state := n }

/-- `v / ETH` of the strength formula. Where `ETH` is zero the spec states no value: it is free (log entry 15). -/
def marginRatio (eth v : Nat) : Rat := if eth = 0 then Config.ratioByZero v else (v : Rat) / (eth : Rat)

/-- `clamp(v, lo, hi)` on rational numbers (spec R11). -/
def clamp (v lo hi : Rat) : Rat := max lo (min hi v)

/-- The strength of a recorded margin under a threshold (spec R136). -/
def strengthOf (eth v : Nat) : Strength :=
  if v = 0 then 1 else clamp (Config.strengthOffset - marginRatio eth v) 0 1

/-- `STRENGTH(D)`, the value RDSTR returns: absent while `LASTERR` is absent (spec R28, R136, D7). -/
def Decoder.strength (d : Decoder) : Option Strength := d.lasterr.map (strengthOf d.eth)

/-- `NextPulse(S)` (spec R61, R64): what the environment adds before this call lands first; then the oldest duration is removed and
returned, or nothing is queued and the answer is absent. -/
def Source.nextPulse (src : Source) : Option Pulse × Source :=
  match src.queue ++ src.arrivals.headD [] with
  | [] => (none, { queue := [], arrivals := src.arrivals.tail })
  | p :: rest => (some p, { queue := rest, arrivals := src.arrivals.tail })

/-- How many pulses a source can still deliver: a finite number (spec D32; log entry 9). -/
def Source.pulses (src : Source) : Nat := src.queue.length + (src.arrivals.map List.length).sum

/-- The environment adds pulses at the tail of a queue (spec R64; `QUEUE` of R113). -/
def Source.enqueue (src : Source) (ds : List Pulse) : Source := { src with queue := src.queue ++ ds }

/-- What sink `k` answers to the next call: an input of the model, free past the listed answers (spec R65, U10; log entry 10). -/
def Sink.nextAnswer (k : Nat) (snk : Sink) : SinkAnswer :=
  match snk.answers with
  | a :: _ => a
  | [] => Config.sinkAnswer k snk.handed.length

/-- `SendPulses(K, seq)` (spec R65): the whole list is handed over in one call. -/
def Sink.take (snk : Sink) (seq : List Pulse) : Sink := { handed := snk.handed ++ [seq], answers := snk.answers.tail }

/-- How the port carries a result: a present strength as a word of the port's format, by the open parameter `STRENGTH_FMT` (spec R8, D8;
log entry 14). No rule reads the word: a strength's format cannot change behaviour (D8). -/
def Result.strengthWord (fmt : Nat) : Result → Option Nat
  | .strength r => r.map (Config.strengthAtPort fmt)
  | _ => none

/-- The operation ends with a result for its caller and the CORRUPT events it emitted (spec R111, R279). -/
def State.respond (s : State) (r : Result) (events : List Corrupt) : State :=
  { s with response := some { result := r, events := events, strengthWord := r.strengthWord s.params.strengthFmt } }

/-- `raise X` (spec R270): the caller receives the error in place of a result and no further state changes. -/
def State.raise (s : State) (e : Raised) : State := s.respond (.raised e) []

end Sys2Proof.Machine
end

