-- ==== Sys2Proof/Machine/Operands.lean ====
section
/-! DEFINITION. Reading the operands of an operation: decoder instances, receivers, transmitters and sinks by number, and the fields of
the tag byte (spec R91, R92, R111). -/

namespace Sys2Proof.Machine

/-- What a meaning answers. -/
abbrev Answer := Host.Outcome State Fault Refusal

/-- The decoder instance that an operand names. -/
def State.decoder? (s : State) : DecRef → Option Decoder
  | .single r => (s.receivers[r]?).map Receiver.dec
  | .sensor m i => (s.multis[m]?).bind fun u => (u.sensors[i]?).map Sensor.dec

/-- The pulse source of the receiver or sensor that an operand names. -/
def State.source? (s : State) : DecRef → Option Source
  | .single r => (s.receivers[r]?).map Receiver.src
  | .sensor m i => (s.multis[m]?).bind fun u => (u.sensors[i]?).map Sensor.src

/-- The write of a decoder instance: no other part of the state is touched. -/
def State.setDecoder (s : State) (d : DecRef) (x : Decoder) : State :=
  match d with
  | .single r => { s with receivers := s.receivers.modify r fun v => { v with dec := x } }
  | .sensor m i =>
    { s with multis := s.multis.modify m fun u => { u with sensors := u.sensors.modify i fun v => { v with dec := x } } }

/-- The write of a source. -/
def State.setSource (s : State) (d : DecRef) (x : Source) : State :=
  match d with
  | .single r => { s with receivers := s.receivers.modify r fun v => { v with src := x } }
  | .sensor m i =>
    { s with multis := s.multis.modify m fun u => { u with sensors := u.sensors.modify i fun v => { v with src := x } } }

/-- The environment's `QUEUE` (spec R113): not an operation of the core. -/
def State.queuePulses (s : State) (d : DecRef) (ds : List Pulse) : State :=
  match s.source? d with
  | some src => s.setSource d (src.enqueue ds)
  | none => s

/-- The host issues one more operation (spec R113). -/
def State.issue (s : State) (r : Request) : State := { s with requests := s.requests ++ [r] }

/-- An operation on the decoder that its operand names. -/
def onDecoder (d : DecRef) (s : State) (k : Decoder → Answer) : Answer :=
  match s.decoder? d with
  | some x => k x
  | none => .refused (.noSuchDecoder d)

/-- The snapshot of a multi-sensor receiver, `M.SNAP` (spec R36). -/
def Multi.snapshot (u : Multi) : List (Option SnapEntry) := u.sensors.map Sensor.snap

/-- An operation that reads a multi-sensor receiver's snapshot and answers its caller; it writes nothing else (spec R244). -/
def onSnapshot (m : Nat) (s : State) (f : List (Option SnapEntry) → Result) : Answer :=
  match s.multis[m]? with
  | some u => .next (s.respond (f u.snapshot) [])
  | none => .refused (.noSuchUnit m)

/-- The end of a protocol step on decoder `d`: its record is written, its packet and event go to the caller. -/
def finishStep (d : DecRef) (s : State) (r : StepResult) : Answer :=
  .next ((s.setDecoder d r.dec).respond (.packet r.packet) r.events)

/-- One protocol step on a decoder of that protocol (spec R161, R192: "a decoder instance with PROTO = …"; log entry 20). -/
def runStep (proto : Protocol) (d : DecRef) (s : State) (f : Decoder → StepResult) : Answer :=
  onDecoder d s fun x => if x.proto = proto then finishStep d s (f x) else .refused (.wrongProtocol d)

/-- One row of a protocol's state map, on a decoder whose STATE selects the row (spec R96, R100; log entry 18). -/
def runRow (proto : Protocol) (row : BitVec 8) (d : DecRef) (s : State) (f : Decoder → StepResult) : Answer :=
  onDecoder d s fun x =>
    if x.proto = proto then
      if x.state = row then finishStep d s (f x) else .refused (.rowNotSelected d row)
    else .refused (.wrongProtocol d)

/-- `b[6:5]` (spec R91). -/
def tagTeam (b : Byte) : BitVec 2 := b.extractLsb' 5 2
/-- `b[4:2]` (spec R91). -/
def tagPlayer (b : Byte) : BitVec 3 := b.extractLsb' 2 3
/-- `b[1:0]` (spec R91). -/
def tagDamage (b : Byte) : BitVec 2 := b.extractLsb' 0 2

/-- The fields of a tag byte as TagData: player and damage are stored minus 1 (spec R92). -/
def tagFields (tt : BitVec 2) (ppp : BitVec 3) (dd : BitVec 2) : TagData :=
  { team := (tt.toNat : Int), player := 1 + (ppp.toNat : Int), damage := 1 + (dd.toNat : Int) }

/-- The legal TagData: team in 0..3, player in 1..8, damage in 1..4 (spec R92, R170). -/
def TagData.legal (t : TagData) : Bool :=
  decide (0 ≤ t.team ∧ t.team ≤ 3 ∧ 1 ≤ t.player ∧ t.player ≤ 8 ∧ 1 ≤ t.damage ∧ t.damage ≤ 4)

end Sys2Proof.Machine
end

