-- ==== Sys2Proof/Machine/Crclp.lean ====
section
/-! DEFINITION. The length-prefixed CRC protocol: one decoder step (CDEC), the rows of its state map (CRCLP.S0 to CRCLP.S2, CRCLP.OTHER)
and the CRC-8 (spec `42_crc_protocol.md`, R98 to R102). -/

namespace Sys2Proof.Machine

/-- One shift of the CRC register: left, and the polynomial XORed in when a 1 leaves bit 7 (spec R197). -/
def crcShift (c : Byte) : Byte := if c.getLsbD 7 then (c <<< 1) ^^^ Config.crcPoly else c <<< 1

/-- One byte into the CRC register: XOR, then eight shifts (spec R197; the XOR is the spec's general knowledge, G1, log entry 13). -/
def crcByte (c x : Byte) : Byte := Nat.repeat crcShift 8 (c ^^^ x)

/-- CRC8 over a byte list, in order, from `CRC_INIT`, with the final XOR `CRC_XOROUT` (spec R197). -/
def crc8 (c : Params) (bytes : List Byte) : Byte := bytes.foldl crcByte c.crcInit ^^^ c.crcXorOut

/-- CDEC in state 0, seeking the header mark: a mismatch discards the pulse and changes nothing (spec R193). -/
def Decoder.cdecSeek (d : Decoder) (p : Pulse) : StepResult :=
  match d.matchPulse p Config.crcHeaderMark with
  | (d', true) => (d'.setState 1#8).goOn
  | (d', false) => d'.goOn

/-- CDEC in state 1, the header space (spec R194). -/
def Decoder.cdecHeader (d : Decoder) (p : Pulse) : StepResult :=
  match d.matchPulse p Config.crcHeaderSpace with
  | (d', true) => (d'.setState 2#8).goOn
  | (d', false) => d'.abort

/-- CDEC at the lead-out (spec R196, R101): the length check, then the CRC check; bits of an unfinished byte are dropped (D21). -/
def Decoder.cdecLeadOut (c : Params) (d : Decoder) : StepResult :=
  if d.rbytes.length < 2 then d.abortCorrupt .short
  else if crc8 c d.rbytes.dropLast = d.rbytes.getLastD 0 then d.complete d.rbytes.dropLast
  else d.abortCorrupt .crc

/-- CDEC in state 2: lead-out, then bit 1, then bit 0, then an abort (spec R195, D20). -/
def Decoder.cdecData (c : Params) (d : Decoder) (p : Pulse) : StepResult :=
  match d.matchPulse p Config.crcLeadOut with
  | (d1, true) => d1.cdecLeadOut c
  | (d1, false) =>
    match d1.matchPulse p Config.crcBit1 with
    | (d2, true) => (d2.wbit 1#1).goOn
    | (d2, false) =>
      match d2.matchPulse p Config.crcBit0 with
      | (d3, true) => (d3.wbit 0#1).goOn
      | (d3, false) => d3.abort

/-- CDEC's step (spec R192). -/
def Decoder.cdec (c : Params) (d : Decoder) (p : Pulse) : StepResult :=
  if d.state = 0#8 then d.cdecSeek p
  else if d.state = 1#8 then d.cdecHeader p
  else if d.state = 2#8 then d.cdecData c p
  else d.abort

/-- CDEC `D`, `p` (spec R192). -/
def execCdec (d : DecRef) (p : Pulse) (s : State) : Answer := runStep .crclp d s fun x => x.cdec s.params p

/-- CRC8 `bytes` (spec R197). -/
def execCrc8 (bytes : List Byte) (s : State) : Answer := .next (s.respond (.byte (crc8 s.params bytes)) [])

/-- CRCLP.S0, seek header mark (spec R100, R193). -/
def execCrclpS0 (d : DecRef) (p : Pulse) (s : State) : Answer := runRow .crclp 0#8 d s fun x => x.cdecSeek p

/-- CRCLP.S1, header space (spec R100, R194). -/
def execCrclpS1 (d : DecRef) (p : Pulse) (s : State) : Answer := runRow .crclp 1#8 d s fun x => x.cdecHeader p

/-- CRCLP.S2, data (spec R100, R195, R196). -/
def execCrclpS2 (d : DecRef) (p : Pulse) (s : State) : Answer := runRow .crclp 2#8 d s fun x => x.cdecData s.params p

/-- CRCLP.OTHER, state 3: the defensive error path (spec R100, R199). -/
def execCrclpOther3 (d : DecRef) (_p : Pulse) (s : State) : Answer := runRow .crclp 3#8 d s Decoder.abort

/-- CRCLP.OTHER, states 4 to 7: the defensive error path (spec R100, R199). -/
def execCrclpOther4 (x : BitVec 2) (d : DecRef) (_p : Pulse) (s : State) : Answer :=
  runRow .crclp (0b000001#6 ++ x) d s Decoder.abort

/-- CRCLP.OTHER, states 8 to 15: the defensive error path (spec R100, R199). -/
def execCrclpOther8 (x : BitVec 3) (d : DecRef) (_p : Pulse) (s : State) : Answer :=
  runRow .crclp (0b00001#5 ++ x) d s Decoder.abort

/-- CRCLP.OTHER, states 16 to 31: the defensive error path (spec R100, R199). -/
def execCrclpOther16 (x : BitVec 4) (d : DecRef) (_p : Pulse) (s : State) : Answer :=
  runRow .crclp (0b0001#4 ++ x) d s Decoder.abort

/-- CRCLP.OTHER, states 32 to 63: the defensive error path (spec R100, R199). -/
def execCrclpOther32 (x : BitVec 5) (d : DecRef) (_p : Pulse) (s : State) : Answer :=
  runRow .crclp (0b001#3 ++ x) d s Decoder.abort

/-- CRCLP.OTHER, states 64 to 127: the defensive error path (spec R100, R199). -/
def execCrclpOther64 (x : BitVec 6) (d : DecRef) (_p : Pulse) (s : State) : Answer :=
  runRow .crclp (0b01#2 ++ x) d s Decoder.abort

/-- CRCLP.OTHER, states 128 to 255: the defensive error path (spec R100, R199). -/
def execCrclpOther128 (x : BitVec 7) (d : DecRef) (_p : Pulse) (s : State) : Answer :=
  runRow .crclp (0b1#1 ++ x) d s Decoder.abort

end Sys2Proof.Machine
end

