-- ==== Sys2Proof/Machine/Tag.lean ====
section
/-! DEFINITION. The Tag protocol: one decoder step (TDEC), the rows of its state map (TAG.S0 to TAG.S17, TAG.OTHER), the encoder (TENC),
the tag field codec (TGPK, TGUP) and the tag byte (spec `41_tag_protocol.md`, R91 to R97). -/

namespace Sys2Proof.Machine

/-- The completion of a Tag packet (spec R165, R168): the flush bit; the assembled byte shifted right by one is the packet, and the reset
records the packet's margin; with no byte assembled, an abort. -/
def Decoder.tagComplete (d : Decoder) : StepResult :=
  let flushed := d.wbit 0#1
  match flushed.rbytes with
  | [] => flushed.abort
  | byte :: _ => flushed.complete [byte >>> 1]

/-- The end of a Tag step that has advanced STATE: the completion test is made in the same step (spec R161, R167). -/
def Decoder.tagArrive (d : Decoder) : StepResult :=
  if d.state = 17#8 then d.tagComplete else d.goOn

/-- A Tag test of one symbol: a match moves to state `next`, a mismatch aborts (spec R162, R163). -/
def Decoder.tagTest (d : Decoder) (p expected : Pulse) (next : BitVec 8) : StepResult :=
  match d.matchPulse p expected with
  | (d', true) => (d'.setState next).tagArrive
  | (d', false) => d'.abort

/-- A Tag data space: the "one" space is tested first, then the "zero" space; a match on neither aborts (spec R164, D9). -/
def Decoder.tagSpaceTest (d : Decoder) (p : Pulse) (next : BitVec 8) : StepResult :=
  match d.matchPulse p Config.tagSpace1 with
  | (d1, true) => ((d1.wbit 1#1).setState next).tagArrive
  | (d1, false) =>
    match d1.matchPulse p Config.tagSpace0 with
    | (d2, true) => ((d2.wbit 0#1).setState next).tagArrive
    | (d2, false) => d2.abort

/-- TDEC's step (spec R161): the pseudocode's case analysis on STATE. -/
def Decoder.tdec (d : Decoder) (p : Pulse) : StepResult :=
  let s := d.state.toNat
  if s ≤ 2 then d.tagTest p (Config.tagPreamble.getD s 0) (d.state + 1#8)
  else if s ≤ 16 then
    if (s - 3) % 2 = 0 then d.tagTest p Config.tagMark (d.state + 1#8)
    else d.tagSpaceTest p (d.state + 1#8)
  else if s = 17 then d.tagComplete
  else d.abort

/-- TENC's list (spec R169): the preamble, then for the bits 6 down to 0 a mark and the bit's space. -/
def tagEncode (b : Byte) : List Pulse :=
  Config.tagPreamble ++
    [6, 5, 4, 3, 2, 1, 0].flatMap fun i => [Config.tagMark, if b.getLsbD i then Config.tagSpace1 else Config.tagSpace0]

/-- The byte that TGPK packs from legal TagData (spec R91, R170). -/
def tagPack (t : TagData) : Byte :=
  (BitVec.ofInt 8 t.team <<< 5) ||| (BitVec.ofInt 8 (t.player - 1) <<< 2) ||| BitVec.ofInt 8 (t.damage - 1)

/-- The fields that TGUP reads from a byte; bit 7 is not looked at (spec R171). -/
def tagUnpack (b : Byte) : TagData := tagFields (tagTeam b) (tagPlayer b) (tagDamage b)

/-- TDEC `D`, `p` (spec R161). -/
def execTdec (d : DecRef) (p : Pulse) (s : State) : Answer := runStep .tag d s fun x => x.tdec p

/-- TENC `b` (spec R169). -/
def execTenc (b : Byte) (s : State) : Answer := .next (s.respond (.pulses (tagEncode b)) [])

/-- TGPK `team`, `player`, `damage` (spec R170): RangeError outside the ranges, "not silently clamped" (R274). -/
def execTgpk (team player damage : Int) (s : State) : Answer :=
  let t : TagData := { team := team, player := player, damage := damage }
  if t.legal then .next (s.respond (.byte (tagPack t)) []) else .next (s.raise .rangeError)

/-- TGUP `b` (spec R171). -/
def execTgup (b : Byte) (s : State) : Answer := .next (s.respond (.tag (tagUnpack b)) [])

/-- TAGBYTE, a tag byte presented as data (spec R91, R93): the TagData it stands for. That the row runs at all, and
from the host port, is a DESIGN CHOICE (log entry 19). -/
def execTagByte (tt : BitVec 2) (ppp : BitVec 3) (dd : BitVec 2) (s : State) : Answer :=
  .next (s.respond (.tag (tagFields tt ppp dd)) [])

/-- TAG.S0, preamble (spec R96, R162). -/
def execTagS0 (d : DecRef) (p : Pulse) (s : State) : Answer := runRow .tag 0#8 d s fun x => x.tagTest p 3000 1#8

/-- TAG.S1, preamble (spec R96, R162). -/
def execTagS1 (d : DecRef) (p : Pulse) (s : State) : Answer := runRow .tag 1#8 d s fun x => x.tagTest p 6000 2#8

/-- TAG.S2, preamble (spec R96, R162). -/
def execTagS2 (d : DecRef) (p : Pulse) (s : State) : Answer := runRow .tag 2#8 d s fun x => x.tagTest p 3000 3#8

/-- TAG.S3, data mark (spec R96, R163). -/
def execTagS3 (d : DecRef) (p : Pulse) (s : State) : Answer := runRow .tag 3#8 d s fun x => x.tagTest p Config.tagMark 4#8

/-- TAG.S4, data space (spec R96, R164). -/
def execTagS4 (d : DecRef) (p : Pulse) (s : State) : Answer := runRow .tag 4#8 d s fun x => x.tagSpaceTest p 5#8

/-- TAG.S5, data mark (spec R96, R163). -/
def execTagS5 (d : DecRef) (p : Pulse) (s : State) : Answer := runRow .tag 5#8 d s fun x => x.tagTest p Config.tagMark 6#8

/-- TAG.S6, data space (spec R96, R164). -/
def execTagS6 (d : DecRef) (p : Pulse) (s : State) : Answer := runRow .tag 6#8 d s fun x => x.tagSpaceTest p 7#8

/-- TAG.S7, data mark (spec R96, R163). -/
def execTagS7 (d : DecRef) (p : Pulse) (s : State) : Answer := runRow .tag 7#8 d s fun x => x.tagTest p Config.tagMark 8#8

/-- TAG.S8, data space (spec R96, R164). -/
def execTagS8 (d : DecRef) (p : Pulse) (s : State) : Answer := runRow .tag 8#8 d s fun x => x.tagSpaceTest p 9#8

/-- TAG.S9, data mark (spec R96, R163). -/
def execTagS9 (d : DecRef) (p : Pulse) (s : State) : Answer := runRow .tag 9#8 d s fun x => x.tagTest p Config.tagMark 10#8

/-- TAG.S10, data space (spec R96, R164). -/
def execTagS10 (d : DecRef) (p : Pulse) (s : State) : Answer := runRow .tag 10#8 d s fun x => x.tagSpaceTest p 11#8

/-- TAG.S11, data mark (spec R96, R163). -/
def execTagS11 (d : DecRef) (p : Pulse) (s : State) : Answer := runRow .tag 11#8 d s fun x => x.tagTest p Config.tagMark 12#8

/-- TAG.S12, data space (spec R96, R164). -/
def execTagS12 (d : DecRef) (p : Pulse) (s : State) : Answer := runRow .tag 12#8 d s fun x => x.tagSpaceTest p 13#8

/-- TAG.S13, data mark (spec R96, R163). -/
def execTagS13 (d : DecRef) (p : Pulse) (s : State) : Answer := runRow .tag 13#8 d s fun x => x.tagTest p Config.tagMark 14#8

/-- TAG.S14, data space (spec R96, R164). -/
def execTagS14 (d : DecRef) (p : Pulse) (s : State) : Answer := runRow .tag 14#8 d s fun x => x.tagSpaceTest p 15#8

/-- TAG.S15, data mark (spec R96, R163). -/
def execTagS15 (d : DecRef) (p : Pulse) (s : State) : Answer := runRow .tag 15#8 d s fun x => x.tagTest p Config.tagMark 16#8

/-- TAG.S16, data space (spec R96, R164, and the completion in the same step, R165, R167). -/
def execTagS16 (d : DecRef) (p : Pulse) (s : State) : Answer := runRow .tag 16#8 d s fun x => x.tagSpaceTest p 17#8

/-- TAG.S17, completion: the pulse is not tested (spec R96, R168, D10). -/
def execTagS17 (d : DecRef) (_p : Pulse) (s : State) : Answer := runRow .tag 17#8 d s fun x => x.tagComplete

/-- TAG.OTHER, states 18 to 19: the defensive error path (spec R96, R166). -/
def execTagOther18 (x : BitVec 1) (d : DecRef) (_p : Pulse) (s : State) : Answer :=
  runRow .tag (0b0001001#7 ++ x) d s Decoder.abort

/-- TAG.OTHER, states 20 to 23: the defensive error path (spec R96, R166). -/
def execTagOther20 (x : BitVec 2) (d : DecRef) (_p : Pulse) (s : State) : Answer :=
  runRow .tag (0b000101#6 ++ x) d s Decoder.abort

/-- TAG.OTHER, states 24 to 31: the defensive error path (spec R96, R166). -/
def execTagOther24 (x : BitVec 3) (d : DecRef) (_p : Pulse) (s : State) : Answer :=
  runRow .tag (0b00011#5 ++ x) d s Decoder.abort

/-- TAG.OTHER, states 32 to 63: the defensive error path (spec R96, R166). -/
def execTagOther32 (x : BitVec 5) (d : DecRef) (_p : Pulse) (s : State) : Answer :=
  runRow .tag (0b001#3 ++ x) d s Decoder.abort

/-- TAG.OTHER, states 64 to 127: the defensive error path (spec R96, R166). -/
def execTagOther64 (x : BitVec 6) (d : DecRef) (_p : Pulse) (s : State) : Answer :=
  runRow .tag (0b01#2 ++ x) d s Decoder.abort

/-- TAG.OTHER, states 128 to 255: the defensive error path (spec R96, R166). -/
def execTagOther128 (x : BitVec 7) (d : DecRef) (_p : Pulse) (s : State) : Answer :=
  runRow .tag (0b1#1 ++ x) d s Decoder.abort

end Sys2Proof.Machine
end

