-- ==== Sys2Proof/Machine/Receive.lean ====
section
/-! DEFINITION. The single-sensor receiver: the decoder dispatch and RECV (spec `43_receivers.md` sections 1 and 2). -/

namespace Sys2Proof.Machine

/-- `Dec(D, p)` (spec R220): the step of the decoder's own protocol. -/
def Decoder.step (c : Params) (d : Decoder) (p : Pulse) : StepResult :=
  match d.proto with
  | .tag => d.tdec p
  | .crclp => d.cdec c p

/-- `FEED D, [p0, p1, ...]` (spec R114): the decoder after the pulses, and what each of them returned. -/
def Decoder.feed (c : Params) (d : Decoder) : List Pulse → Decoder × List (Option Packet)
  | [] => (d, [])
  | p :: ps =>
    let r := d.step c p
    let rest := r.dec.feed c ps
    (rest.1, r.packet :: rest.2)

/-- What a receive loop leaves: the source, the decoder, the packet it returns, and the CORRUPT events met, in order. -/
structure Received where
  src : Source
  dec : Decoder
  packet : Option Packet
  events : List Corrupt
deriving DecidableEq, Repr

/-- The loop of RECV (spec R221), at most `n` pulls. -/
def recvLoop (c : Params) : Nat → Source → Decoder → Received
  | 0, src, d => { src := src, dec := d, packet := none, events := [] }
  | n + 1, src, d =>
    match src.nextPulse with
    | (none, src') => { src := src', dec := d, packet := none, events := [] }
    | (some p, src') =>
      let r := d.step c p
      match r.packet with
      | some k => { src := src', dec := r.dec, packet := some k, events := r.events }
      | none =>
        let rest := recvLoop c n src' r.dec
        { rest with events := r.events ++ rest.events }

/-- RECV's loop with a bound that it never reaches: a source delivers finitely many pulses (spec R224, R329, D32; log entry 9). -/
def recvAll (c : Params) (src : Source) (d : Decoder) : Received := recvLoop c (src.pulses + 1) src d

/-- RECV `R` (spec R221). -/
def execRecv (r : Nat) (s : State) : Answer :=
  match s.receivers[r]? with
  | some x =>
    let z := recvAll s.params x.src x.dec
    .next (({ s with receivers := s.receivers.set r { src := z.src, dec := z.dec } }).respond (.packet z.packet) z.events)
  | none => .refused (.noSuchUnit r)

end Sys2Proof.Machine
end

