-- ==== Sys2Proof/Machine/Arbiter.lean ====
section
/-! DEFINITION. The multi-sensor receiver and the arbiter: MRECV and the queries QBEST, QRANK, QWMAR, QWSTR (spec `43_receivers.md`
sections 3 and 4). -/

namespace Sys2Proof.Machine

/-- What one sensor does in a round: the sensor after it, whether a pulse was pulled, the packet, the CORRUPT events. -/
structure Pull where
  sensor : Sensor
  got : Bool
  packet : Option Packet
  events : List Corrupt
deriving DecidableEq, Repr

/-- Steps 1 and 2 of a round for one sensor (spec R231): at most one pulse, fed to the sensor's own decoder; a sensor whose source answers
absent is skipped. -/
def Sensor.pull (c : Params) (x : Sensor) : Pull :=
  match x.src.nextPulse with
  | (none, src') => { sensor := { x with src := src' }, got := false, packet := none, events := [] }
  | (some p, src') =>
    let r := x.dec.step c p
    { sensor := { x with src := src', dec := r.dec }, got := true, packet := r.packet, events := r.events }

/-- The snapshot entry of a completed sensor: its LASTERR and the strength computed from it (spec R232; log entry 24). -/
def Decoder.snapEntry (d : Decoder) : Option SnapEntry :=
  d.lasterr.map fun m => { margin := m, strength := strengthOf d.eth m }

/-- The snapshot of a completing round: present exactly for the sensors that completed in it (spec R232). -/
def Pull.capture (q : Pull) : Sensor :=
  { q.sensor with snap := if q.packet.isSome then q.sensor.dec.snapEntry else none }

/-- The reset of every decoder: its own LASTERR is written back (spec R234, D12). -/
def Sensor.resetDecoder (x : Sensor) : Sensor := { x with dec := x.dec.drst x.dec.lasterr }

/-- The scan for the lowest margin (spec R233, R240): ascending index from `i`, a sensor replaces the best so far only if its margin is
strictly lower. -/
def scanBest (i : Nat) (best : Option (Nat × SnapEntry)) : List (Option SnapEntry) → Option (Nat × SnapEntry)
  | [] => best
  | none :: rest => scanBest (i + 1) best rest
  | some e :: rest =>
    let now :=
      match best with
      | none => (i, e)
      | some (w, f) => if e.margin < f.margin then (i, e) else (w, f)
    scanBest (i + 1) (some now) rest

/-- The sensor of the lowest margin in a snapshot with its entry, the lowest index among equals (spec R233, R240, D11). -/
def bestOf (snap : List (Option SnapEntry)) : Option (Nat × SnapEntry) := scanBest 0 none snap

/-- The present entries of a snapshot with their indices, ascending from `i`. -/
def presentFrom (i : Nat) : List (Option SnapEntry) → List (Nat × SnapEntry)
  | [] => []
  | none :: rest => presentFrom (i + 1) rest
  | some e :: rest => (i, e) :: presentFrom (i + 1) rest

/-- Insertion behind every entry whose margin is not higher. -/
def insertRanked (x : Nat × SnapEntry) : List (Nat × SnapEntry) → List (Nat × SnapEntry)
  | [] => [x]
  | y :: ys => if x.2.margin < y.2.margin then x :: y :: ys else y :: insertRanked x ys

/-- The ranked list: ascending margin, equal margins in ascending index (spec R241, D13). -/
def rankOf (snap : List (Option SnapEntry)) : List (Nat × SnapEntry) :=
  (presentFrom 0 snap).foldl (fun acc x => insertRanked x acc) []

/-- What MRECV's loop leaves: the sensors, the packet it returns, and the CORRUPT events met, in order. -/
structure Arbitrated where
  sensors : List Sensor
  packet : Option Packet
  events : List Corrupt
deriving DecidableEq, Repr

/-- The CORRUPT events of a round, ascending sensor index (spec D14). -/
def roundEvents (qs : List Pull) : List Corrupt := qs.flatMap Pull.events

/-- Step 3 of a completing round (spec R232 to R235): the snapshot, the winner's packet, the reset of every decoder. -/
def arbitrate (qs : List Pull) : Arbitrated :=
  let captured := qs.map Pull.capture
  { sensors := captured.map Sensor.resetDecoder
    packet := (bestOf (captured.map Sensor.snap)).bind fun w => (qs[w.1]?).bind Pull.packet
    events := roundEvents qs }

/-- The loop of MRECV (spec R230), at most `n` rounds. -/
def mrecvLoop (c : Params) : Nat → List Sensor → Arbitrated
  | 0, xs => { sensors := xs, packet := none, events := [] }
  | n + 1, xs =>
    let qs := xs.map (Sensor.pull c)
    if qs.any (fun q => q.packet.isSome) then arbitrate qs
    else if qs.any Pull.got then
      let rest := mrecvLoop c n (qs.map Pull.sensor)
      { rest with events := roundEvents qs ++ rest.events }
    else { sensors := qs.map Pull.sensor, packet := none, events := [] }

/-- How many pulses the sensors' sources can still deliver together. -/
def totalPulses (xs : List Sensor) : Nat := (xs.map fun x => x.src.pulses).sum

/-- MRECV's loop with a bound that it never reaches: every round but the last takes a pulse (spec R235, R329, D32; log entry 9). -/
def mrecvAll (c : Params) (xs : List Sensor) : Arbitrated := mrecvLoop c (totalPulses xs + 1) xs

/-- MRECV `M` (spec R230). -/
def execMrecv (m : Nat) (s : State) : Answer :=
  match s.multis[m]? with
  | some u =>
    let z := mrecvAll s.params u.sensors
    .next (({ s with multis := s.multis.set m { sensors := z.sensors } }).respond (.packet z.packet) z.events)
  | none => .refused (.noSuchUnit m)

/-- QBEST `M` (spec R240). -/
def execQbest (m : Nat) (s : State) : Answer := onSnapshot m s fun snap => .sensor ((bestOf snap).map Prod.fst)

/-- QRANK `M` (spec R241). -/
def execQrank (m : Nat) (s : State) : Answer := onSnapshot m s fun snap => .ranking ((rankOf snap).map Prod.fst)

/-- QWMAR `M` (spec R242). -/
def execQwmar (m : Nat) (s : State) : Answer := onSnapshot m s fun snap => .margin ((bestOf snap).map fun w => w.2.margin)

/-- QWSTR `M` (spec R243). -/
def execQwstr (m : Nat) (s : State) : Answer := onSnapshot m s fun snap => .strength ((bestOf snap).map fun w => w.2.strength)

end Sys2Proof.Machine
end

