-- ==== Sys2Proof/Machine/Engine.lean ====
section
/-! DEFINITION. The meanings of the decoder engine's operations: MATCH, WBIT, DRST, RDLEM, RDSTR (spec `40_engine.md`). -/

namespace Sys2Proof.Machine

/-- MATCH `D`, `observed`, `expected` (spec R130). -/
def execMatch (d : DecRef) (observed expected : Pulse) (s : State) : Answer :=
  onDecoder d s fun x =>
    .next ((s.setDecoder d (x.matchPulse observed expected).1).respond (.flag (x.matchPulse observed expected).2) [])

/-- WBIT `D`, `b` (spec R133). -/
def execWbit (d : DecRef) (b : BitVec 1) (s : State) : Answer :=
  onDecoder d s fun x => .next ((s.setDecoder d (x.wbit b)).respond .unit [])

/-- DRST `D`, `m` (spec R134). -/
def execDrst (d : DecRef) (m : Option Pulse) (s : State) : Answer :=
  onDecoder d s fun x => .next ((s.setDecoder d (x.drst m)).respond .unit [])

/-- RDLEM `D` (spec R135). -/
def execRdlem (d : DecRef) (s : State) : Answer :=
  onDecoder d s fun x => .next (s.respond (.margin x.lasterr) [])

/-- RDSTR `D` (spec R136). -/
def execRdstr (d : DecRef) (s : State) : Answer :=
  onDecoder d s fun x => .next (s.respond (.strength x.strength) [])

end Sys2Proof.Machine
end

