-- ==== Sys2Proof/Machine/Reserved.lean ====
section
/-! DEFINITION. The reserved select codes (spec R112, U12): refused, with no state change; "A model gives such a request no meaning." -/

namespace Sys2Proof.Machine

/-- A reserved select code is refused (spec R112). -/
def refuseReserved (code : BitVec 5) (_s : State) : Answer := .refused (.reservedCode code)

/-- RESERVED 00000 (spec R112). -/
def execReserved0 (s : State) : Answer := refuseReserved 0b00000#5 s

/-- RESERVED 0011x (spec R112). -/
def execReserved6 (x : BitVec 1) (s : State) : Answer := refuseReserved (0b0011#4 ++ x) s

/-- RESERVED 0111x (spec R112). -/
def execReserved14 (x : BitVec 1) (s : State) : Answer := refuseReserved (0b0111#4 ++ x) s

/-- RESERVED 1011x (spec R112). -/
def execReserved22 (x : BitVec 1) (s : State) : Answer := refuseReserved (0b1011#4 ++ x) s

/-- RESERVED 11001 (spec R112). -/
def execReserved25 (s : State) : Answer := refuseReserved 0b11001#5 s

/-- RESERVED 1101x (spec R112). -/
def execReserved26 (x : BitVec 1) (s : State) : Answer := refuseReserved (0b1101#4 ++ x) s

/-- RESERVED 111xx (spec R112). -/
def execReserved28 (x : BitVec 2) (s : State) : Answer := refuseReserved (0b111#3 ++ x) s

end Sys2Proof.Machine
end

