-- ==== Sys2Proof/Machine/Transmit.lean ====
section
/-! DEFINITION. The transmitter: the encoder dispatch and SEND (spec `44_transmitter.md`). -/

namespace Sys2Proof.Machine

/-- What the encoder makes of SEND's data. -/
inductive Encoded where
  /-- The duration list. -/
  | pulses (seq : List Pulse)
  /-- `raise Unencodable`: the protocol has no encoder (spec R200, R260). -/
  | unencodable
  /-- Data that is not one byte under TAG: the spec gives it no meaning (D27; log entry 20). -/
  | noByte
deriving DecidableEq, Repr

/-- `Enc(proto, data)` (spec R260). -/
def encodeData : Protocol → SendData → Encoded
  | .tag, .byte b => .pulses (tagEncode b)
  | .tag, .bytes _ => .noByte
  | .crclp, _ => .unencodable

/-- What SEND's caller receives for the sink's answer (spec R261, R262: a failure is raised, with no retry). -/
def sendResult : SinkAnswer → Result
  | .success => .success
  | .failure => .raised .sinkFailure

/-- SEND `T`, `data`, `override` (spec R261): the encoding first, then one call to the override if there is one, else to the default
sink. -/
def execSend (t : Nat) (data : SendData) (sink : Option Nat) (s : State) : Answer :=
  match s.transmitters[t]? with
  | none => .refused (.noSuchUnit t)
  | some x =>
    match encodeData x.proto data with
    | .unencodable => .next (s.raise .unencodable)
    | .noByte => .refused .dataIsNoByte
    | .pulses seq =>
      let k := sink.getD x.sink
      match s.sinks[k]? with
      | none => .refused (.noSuchSink k)
      | some snk => .next (({ s with sinks := s.sinks.set k (snk.take seq) }).respond (sendResult (snk.nextAnswer k)) [])

end Sys2Proof.Machine
end

