-- ==== Sys2Proof/Machine/Dispatch.lean ====
section
/-! DEFINITION. One arm per instruction: the call of its meaning. -/

namespace Sys2Proof.Machine

def exec (i : Instr) (s : State) : Host.Outcome State Fault Refusal :=
  match i with
  | .matchOp d observed expected => Sys2Proof.Machine.execMatch d observed expected s
  | .wbit d b => Sys2Proof.Machine.execWbit d b s
  | .drst d m => Sys2Proof.Machine.execDrst d m s
  | .rdlem d => Sys2Proof.Machine.execRdlem d s
  | .rdstr d => Sys2Proof.Machine.execRdstr d s
  | .tdec d p => Sys2Proof.Machine.execTdec d p s
  | .tenc b => Sys2Proof.Machine.execTenc b s
  | .tgpk team player damage => Sys2Proof.Machine.execTgpk team player damage s
  | .tgup b => Sys2Proof.Machine.execTgup b s
  | .cdec d p => Sys2Proof.Machine.execCdec d p s
  | .crc8 bytes => Sys2Proof.Machine.execCrc8 bytes s
  | .recv r => Sys2Proof.Machine.execRecv r s
  | .mrecv m => Sys2Proof.Machine.execMrecv m s
  | .qbest m => Sys2Proof.Machine.execQbest m s
  | .qrank m => Sys2Proof.Machine.execQrank m s
  | .qwmar m => Sys2Proof.Machine.execQwmar m s
  | .qwstr m => Sys2Proof.Machine.execQwstr m s
  | .send t data sink => Sys2Proof.Machine.execSend t data sink s
  | .reserved0 => Sys2Proof.Machine.execReserved0 s
  | .reserved6 x => Sys2Proof.Machine.execReserved6 x s
  | .reserved14 x => Sys2Proof.Machine.execReserved14 x s
  | .reserved22 x => Sys2Proof.Machine.execReserved22 x s
  | .reserved25 => Sys2Proof.Machine.execReserved25 s
  | .reserved26 x => Sys2Proof.Machine.execReserved26 x s
  | .reserved28 x => Sys2Proof.Machine.execReserved28 x s
  | .tagS0 d p => Sys2Proof.Machine.execTagS0 d p s
  | .tagS1 d p => Sys2Proof.Machine.execTagS1 d p s
  | .tagS2 d p => Sys2Proof.Machine.execTagS2 d p s
  | .tagS3 d p => Sys2Proof.Machine.execTagS3 d p s
  | .tagS4 d p => Sys2Proof.Machine.execTagS4 d p s
  | .tagS5 d p => Sys2Proof.Machine.execTagS5 d p s
  | .tagS6 d p => Sys2Proof.Machine.execTagS6 d p s
  | .tagS7 d p => Sys2Proof.Machine.execTagS7 d p s
  | .tagS8 d p => Sys2Proof.Machine.execTagS8 d p s
  | .tagS9 d p => Sys2Proof.Machine.execTagS9 d p s
  | .tagS10 d p => Sys2Proof.Machine.execTagS10 d p s
  | .tagS11 d p => Sys2Proof.Machine.execTagS11 d p s
  | .tagS12 d p => Sys2Proof.Machine.execTagS12 d p s
  | .tagS13 d p => Sys2Proof.Machine.execTagS13 d p s
  | .tagS14 d p => Sys2Proof.Machine.execTagS14 d p s
  | .tagS15 d p => Sys2Proof.Machine.execTagS15 d p s
  | .tagS16 d p => Sys2Proof.Machine.execTagS16 d p s
  | .tagS17 d p => Sys2Proof.Machine.execTagS17 d p s
  | .tagOther18 x d p => Sys2Proof.Machine.execTagOther18 x d p s
  | .tagOther20 x d p => Sys2Proof.Machine.execTagOther20 x d p s
  | .tagOther24 x d p => Sys2Proof.Machine.execTagOther24 x d p s
  | .tagOther32 x d p => Sys2Proof.Machine.execTagOther32 x d p s
  | .tagOther64 x d p => Sys2Proof.Machine.execTagOther64 x d p s
  | .tagOther128 x d p => Sys2Proof.Machine.execTagOther128 x d p s
  | .crclpS0 d p => Sys2Proof.Machine.execCrclpS0 d p s
  | .crclpS1 d p => Sys2Proof.Machine.execCrclpS1 d p s
  | .crclpS2 d p => Sys2Proof.Machine.execCrclpS2 d p s
  | .crclpOther3 d p => Sys2Proof.Machine.execCrclpOther3 d p s
  | .crclpOther4 x d p => Sys2Proof.Machine.execCrclpOther4 x d p s
  | .crclpOther8 x d p => Sys2Proof.Machine.execCrclpOther8 x d p s
  | .crclpOther16 x d p => Sys2Proof.Machine.execCrclpOther16 x d p s
  | .crclpOther32 x d p => Sys2Proof.Machine.execCrclpOther32 x d p s
  | .crclpOther64 x d p => Sys2Proof.Machine.execCrclpOther64 x d p s
  | .crclpOther128 x d p => Sys2Proof.Machine.execCrclpOther128 x d p s
  | .tagByte tt ppp dd => Sys2Proof.Machine.execTagByte tt ppp dd s

end Sys2Proof.Machine
end

