-- ==== Sys2Proof/WellFormed.lean ====
section
/-! DEFINITION. Well-formedness of an instruction as the host port can present it: every duration operand fits the `PW` bits of a port
(spec R8, D4, U17: a wider duration "cannot be presented"). Every other operand's type holds legal values only. -/

namespace Sys2Proof

/-- A duration that a port can carry (spec D4: 0..65535). -/
def Pulse.fitsPort (p : Pulse) : Bool := decide (p < 2 ^ pulseWidth)

/-- What WellFormed demands of an instruction. -/
def Instr.wellFormed : Instr → Bool
  | .matchOp _ observed expected => Pulse.fitsPort observed && Pulse.fitsPort expected
  | .wbit _ _ => true
  | .drst _ none => true
  | .drst _ (some m) => Pulse.fitsPort m
  | .rdlem _ => true
  | .rdstr _ => true
  | .tdec _ p => Pulse.fitsPort p
  | .tenc _ => true
  | .tgpk _ _ _ => true
  | .tgup _ => true
  | .cdec _ p => Pulse.fitsPort p
  | .crc8 _ => true
  | .recv _ => true
  | .mrecv _ => true
  | .qbest _ => true
  | .qrank _ => true
  | .qwmar _ => true
  | .qwstr _ => true
  | .send _ _ _ => true
  | .reserved0 => true
  | .reserved6 _ => true
  | .reserved14 _ => true
  | .reserved22 _ => true
  | .reserved25 => true
  | .reserved26 _ => true
  | .reserved28 _ => true
  | .tagS0 _ p => Pulse.fitsPort p
  | .tagS1 _ p => Pulse.fitsPort p
  | .tagS2 _ p => Pulse.fitsPort p
  | .tagS3 _ p => Pulse.fitsPort p
  | .tagS4 _ p => Pulse.fitsPort p
  | .tagS5 _ p => Pulse.fitsPort p
  | .tagS6 _ p => Pulse.fitsPort p
  | .tagS7 _ p => Pulse.fitsPort p
  | .tagS8 _ p => Pulse.fitsPort p
  | .tagS9 _ p => Pulse.fitsPort p
  | .tagS10 _ p => Pulse.fitsPort p
  | .tagS11 _ p => Pulse.fitsPort p
  | .tagS12 _ p => Pulse.fitsPort p
  | .tagS13 _ p => Pulse.fitsPort p
  | .tagS14 _ p => Pulse.fitsPort p
  | .tagS15 _ p => Pulse.fitsPort p
  | .tagS16 _ p => Pulse.fitsPort p
  | .tagS17 _ p => Pulse.fitsPort p
  | .tagOther18 _ _ p => Pulse.fitsPort p
  | .tagOther20 _ _ p => Pulse.fitsPort p
  | .tagOther24 _ _ p => Pulse.fitsPort p
  | .tagOther32 _ _ p => Pulse.fitsPort p
  | .tagOther64 _ _ p => Pulse.fitsPort p
  | .tagOther128 _ _ p => Pulse.fitsPort p
  | .crclpS0 _ p => Pulse.fitsPort p
  | .crclpS1 _ p => Pulse.fitsPort p
  | .crclpS2 _ p => Pulse.fitsPort p
  | .crclpOther3 _ p => Pulse.fitsPort p
  | .crclpOther4 _ _ p => Pulse.fitsPort p
  | .crclpOther8 _ _ p => Pulse.fitsPort p
  | .crclpOther16 _ _ p => Pulse.fitsPort p
  | .crclpOther32 _ _ p => Pulse.fitsPort p
  | .crclpOther64 _ _ p => Pulse.fitsPort p
  | .crclpOther128 _ _ p => Pulse.fitsPort p
  | .tagByte _ _ _ => true

/-- The operations that the host port does not reach while `EXPOSE_UOPS` is 0: those that R110 marks `internal`, and the rows of the
state maps, which only a decoder step selects. DESIGN CHOICES where R110 has no entry: the rows of the state maps are internal (log
entries 5 and 18), and TAGBYTE, which is a row of the table but none of R110's closed set of operations, is within the host's reach
(log entry 19). -/
def Instr.internal : Instr → Bool
  | .matchOp _ _ _ => true
  | .wbit _ _ => true
  | .drst _ _ => true
  | .rdlem _ => false
  | .rdstr _ => false
  | .tdec _ _ => true
  | .tenc _ => true
  | .tgpk _ _ _ => false
  | .tgup _ => false
  | .cdec _ _ => true
  | .crc8 _ => true
  | .recv _ => false
  | .mrecv _ => false
  | .qbest _ => false
  | .qrank _ => false
  | .qwmar _ => false
  | .qwstr _ => false
  | .send _ _ _ => false
  | .reserved0 => false
  | .reserved6 _ => false
  | .reserved14 _ => false
  | .reserved22 _ => false
  | .reserved25 => false
  | .reserved26 _ => false
  | .reserved28 _ => false
  | .tagS0 _ _ => true
  | .tagS1 _ _ => true
  | .tagS2 _ _ => true
  | .tagS3 _ _ => true
  | .tagS4 _ _ => true
  | .tagS5 _ _ => true
  | .tagS6 _ _ => true
  | .tagS7 _ _ => true
  | .tagS8 _ _ => true
  | .tagS9 _ _ => true
  | .tagS10 _ _ => true
  | .tagS11 _ _ => true
  | .tagS12 _ _ => true
  | .tagS13 _ _ => true
  | .tagS14 _ _ => true
  | .tagS15 _ _ => true
  | .tagS16 _ _ => true
  | .tagS17 _ _ => true
  | .tagOther18 _ _ _ => true
  | .tagOther20 _ _ _ => true
  | .tagOther24 _ _ _ => true
  | .tagOther32 _ _ _ => true
  | .tagOther64 _ _ _ => true
  | .tagOther128 _ _ _ => true
  | .crclpS0 _ _ => true
  | .crclpS1 _ _ => true
  | .crclpS2 _ _ => true
  | .crclpOther3 _ _ => true
  | .crclpOther4 _ _ _ => true
  | .crclpOther8 _ _ _ => true
  | .crclpOther16 _ _ _ => true
  | .crclpOther32 _ _ _ => true
  | .crclpOther64 _ _ _ => true
  | .crclpOther128 _ _ _ => true
  | .tagByte _ _ _ => false

end Sys2Proof
end

