-- ==== Sys2Proof/Decode.lean ====
section
/-! DEFINITION. The decoder, total on every request, rejecting by name; the encoder; and the decoding of a bare word of
`spec/opcode_table.json`. The select codes are those of spec R110, the state numbers those of R96 and R100, the tag byte that of R91. -/

namespace Sys2Proof

/-- Why a request is no instruction of its format. Safe: the machine refuses it (spec R112). -/
inductive DecodeError where
  /-- Format OP: the word is wider than the 5 bits of a select code (spec R110). -/
  | wordIsNoSelectCode (w : Byte)
  /-- Format DATA_BYTE: bit 7 of the word is not 0 (spec R91, R93). -/
  | wordIsNoTagByte (w : Byte)
deriving DecidableEq, Repr

/-- The data operand of SEND from its lines. -/
def Lines.sendData (l : Lines) : SendData := if l.dataIsList then .bytes l.bytes else .byte l.byte

/-- The operation of a 5-bit select code with its operands (spec R110, R111, R112). -/
def decodeOp (c : BitVec 5) (l : Lines) : Instr :=
  match c.toNat with
  | 0 => .reserved0
  | 1 => .matchOp l.dec l.dur0.toNat l.dur1.toNat
  | 2 => .wbit l.dec l.bit
  | 3 => .drst l.dec (l.optDur.map BitVec.toNat)
  | 4 => .rdlem l.dec
  | 5 => .rdstr l.dec
  | 6 => .reserved6 0
  | 7 => .reserved6 1
  | 8 => .tdec l.dec l.dur0.toNat
  | 9 => .tenc l.byte
  | 10 => .tgpk l.int0 l.int1 l.int2
  | 11 => .tgup l.byte
  | 12 => .cdec l.dec l.dur0.toNat
  | 13 => .crc8 l.bytes
  | 14 => .reserved14 0
  | 15 => .reserved14 1
  | 16 => .recv l.unit
  | 17 => .mrecv l.unit
  | 18 => .qbest l.unit
  | 19 => .qrank l.unit
  | 20 => .qwmar l.unit
  | 21 => .qwstr l.unit
  | 22 => .reserved22 0
  | 23 => .reserved22 1
  | 24 => .send l.unit l.sendData l.sink
  | 25 => .reserved25
  | 26 => .reserved26 0
  | 27 => .reserved26 1
  | _ => .reserved28 (c.extractLsb' 0 2)

/-- The row of the Tag state map that a STATE value selects (spec R96). -/
def decodeTagState (w : Byte) (d : DecRef) (p : Pulse) : Instr :=
  match w.toNat with
  | 0 => .tagS0 d p
  | 1 => .tagS1 d p
  | 2 => .tagS2 d p
  | 3 => .tagS3 d p
  | 4 => .tagS4 d p
  | 5 => .tagS5 d p
  | 6 => .tagS6 d p
  | 7 => .tagS7 d p
  | 8 => .tagS8 d p
  | 9 => .tagS9 d p
  | 10 => .tagS10 d p
  | 11 => .tagS11 d p
  | 12 => .tagS12 d p
  | 13 => .tagS13 d p
  | 14 => .tagS14 d p
  | 15 => .tagS15 d p
  | 16 => .tagS16 d p
  | 17 => .tagS17 d p
  | _ =>
    if w < 20#8 then .tagOther18 (w.extractLsb' 0 1) d p
    else if w < 24#8 then .tagOther20 (w.extractLsb' 0 2) d p
    else if w < 32#8 then .tagOther24 (w.extractLsb' 0 3) d p
    else if w < 64#8 then .tagOther32 (w.extractLsb' 0 5) d p
    else if w < 128#8 then .tagOther64 (w.extractLsb' 0 6) d p
    else .tagOther128 (w.extractLsb' 0 7) d p

/-- The row of the CRCLP state map that a STATE value selects (spec R100). -/
def decodeCrclpState (w : Byte) (d : DecRef) (p : Pulse) : Instr :=
  match w.toNat with
  | 0 => .crclpS0 d p
  | 1 => .crclpS1 d p
  | 2 => .crclpS2 d p
  | 3 => .crclpOther3 d p
  | _ =>
    if w < 8#8 then .crclpOther4 (w.extractLsb' 0 2) d p
    else if w < 16#8 then .crclpOther8 (w.extractLsb' 0 3) d p
    else if w < 32#8 then .crclpOther16 (w.extractLsb' 0 4) d p
    else if w < 64#8 then .crclpOther32 (w.extractLsb' 0 5) d p
    else if w < 128#8 then .crclpOther64 (w.extractLsb' 0 6) d p
    else .crclpOther128 (w.extractLsb' 0 7) d p

/-- The tag byte with its fields at bits 6:5, 4:2 and 1:0 (spec R91). -/
def decodeTagByte (w : Byte) : Instr :=
  .tagByte (w.extractLsb' 5 2) (w.extractLsb' 2 3) (w.extractLsb' 0 2)

/-- The instruction that a request presents. -/
def decode (r : Request) : Except DecodeError Instr :=
  match r.format with
  | .op =>
    if r.word.extractLsb' 5 3 = 0#3 then .ok (decodeOp (r.word.extractLsb' 0 5) r.lines)
    else .error (.wordIsNoSelectCode r.word)
  | .tagState => .ok (decodeTagState r.word r.lines.dec r.lines.dur0.toNat)
  | .crclpState => .ok (decodeCrclpState r.word r.lines.dec r.lines.dur0.toNat)
  | .dataByte =>
    if r.word.extractLsb' 7 1 = 0#1 then .ok (decodeTagByte r.word)
    else .error (.wordIsNoTagByte r.word)

/-- A request in format OP. -/
def opRequest (code : BitVec 5) (l : Lines) : Request := { format := .op, word := code.setWidth 8, lines := l }

/-- The lines of an operand pair decoder and pulse. -/
def stepLines (d : DecRef) (p : Pulse) : Lines := { Lines.zero with dec := d, dur0 := BitVec.ofNat pulseWidth p }

/-- The lines of SEND's operands. -/
def sendLines (t : Nat) (data : SendData) (sink : Option Nat) : Lines :=
  match data with
  | .byte b => { Lines.zero with unit := t, byte := b, sink := sink }
  | .bytes bs => { Lines.zero with unit := t, bytes := bs, dataIsList := true, sink := sink }

/-- A row of the Tag state map as a request. -/
def tagRequest (w : Byte) (d : DecRef) (p : Pulse) : Request := { format := .tagState, word := w, lines := stepLines d p }

/-- A row of the CRCLP state map as a request. -/
def crclpRequest (w : Byte) (d : DecRef) (p : Pulse) : Request := { format := .crclpState, word := w, lines := stepLines d p }

/-- The request that presents an instruction: its code from the tables of spec R110, R112, R96, R100, R91, and its operands on
their lines, every other line at zero. -/
def encode : Instr → Request
  | .matchOp d o e =>
    opRequest 0b00001#5 { Lines.zero with dec := d, dur0 := BitVec.ofNat pulseWidth o, dur1 := BitVec.ofNat pulseWidth e }
  | .wbit d b => opRequest 0b00010#5 { Lines.zero with dec := d, bit := b }
  | .drst d m => opRequest 0b00011#5 { Lines.zero with dec := d, optDur := m.map (BitVec.ofNat pulseWidth) }
  | .rdlem d => opRequest 0b00100#5 { Lines.zero with dec := d }
  | .rdstr d => opRequest 0b00101#5 { Lines.zero with dec := d }
  | .tdec d p => opRequest 0b01000#5 (stepLines d p)
  | .tenc b => opRequest 0b01001#5 { Lines.zero with byte := b }
  | .tgpk t p d => opRequest 0b01010#5 { Lines.zero with int0 := t, int1 := p, int2 := d }
  | .tgup b => opRequest 0b01011#5 { Lines.zero with byte := b }
  | .cdec d p => opRequest 0b01100#5 (stepLines d p)
  | .crc8 bs => opRequest 0b01101#5 { Lines.zero with bytes := bs }
  | .recv r => opRequest 0b10000#5 { Lines.zero with unit := r }
  | .mrecv m => opRequest 0b10001#5 { Lines.zero with unit := m }
  | .qbest m => opRequest 0b10010#5 { Lines.zero with unit := m }
  | .qrank m => opRequest 0b10011#5 { Lines.zero with unit := m }
  | .qwmar m => opRequest 0b10100#5 { Lines.zero with unit := m }
  | .qwstr m => opRequest 0b10101#5 { Lines.zero with unit := m }
  | .send t data sink => opRequest 0b11000#5 (sendLines t data sink)
  | .reserved0 => opRequest 0b00000#5 Lines.zero
  | .reserved6 x => opRequest (0b0011#4 ++ x) Lines.zero
  | .reserved14 x => opRequest (0b0111#4 ++ x) Lines.zero
  | .reserved22 x => opRequest (0b1011#4 ++ x) Lines.zero
  | .reserved25 => opRequest 0b11001#5 Lines.zero
  | .reserved26 x => opRequest (0b1101#4 ++ x) Lines.zero
  | .reserved28 x => opRequest (0b111#3 ++ x) Lines.zero
  | .tagS0 d p => tagRequest 0#8 d p
  | .tagS1 d p => tagRequest 1#8 d p
  | .tagS2 d p => tagRequest 2#8 d p
  | .tagS3 d p => tagRequest 3#8 d p
  | .tagS4 d p => tagRequest 4#8 d p
  | .tagS5 d p => tagRequest 5#8 d p
  | .tagS6 d p => tagRequest 6#8 d p
  | .tagS7 d p => tagRequest 7#8 d p
  | .tagS8 d p => tagRequest 8#8 d p
  | .tagS9 d p => tagRequest 9#8 d p
  | .tagS10 d p => tagRequest 10#8 d p
  | .tagS11 d p => tagRequest 11#8 d p
  | .tagS12 d p => tagRequest 12#8 d p
  | .tagS13 d p => tagRequest 13#8 d p
  | .tagS14 d p => tagRequest 14#8 d p
  | .tagS15 d p => tagRequest 15#8 d p
  | .tagS16 d p => tagRequest 16#8 d p
  | .tagS17 d p => tagRequest 17#8 d p
  | .tagOther18 x d p => tagRequest (0b0001001#7 ++ x) d p
  | .tagOther20 x d p => tagRequest (0b000101#6 ++ x) d p
  | .tagOther24 x d p => tagRequest (0b00011#5 ++ x) d p
  | .tagOther32 x d p => tagRequest (0b001#3 ++ x) d p
  | .tagOther64 x d p => tagRequest (0b01#2 ++ x) d p
  | .tagOther128 x d p => tagRequest (0b1#1 ++ x) d p
  | .crclpS0 d p => crclpRequest 0#8 d p
  | .crclpS1 d p => crclpRequest 1#8 d p
  | .crclpS2 d p => crclpRequest 2#8 d p
  | .crclpOther3 d p => crclpRequest 3#8 d p
  | .crclpOther4 x d p => crclpRequest (0b000001#6 ++ x) d p
  | .crclpOther8 x d p => crclpRequest (0b00001#5 ++ x) d p
  | .crclpOther16 x d p => crclpRequest (0b0001#4 ++ x) d p
  | .crclpOther32 x d p => crclpRequest (0b001#3 ++ x) d p
  | .crclpOther64 x d p => crclpRequest (0b01#2 ++ x) d p
  | .crclpOther128 x d p => crclpRequest (0b1#1 ++ x) d p
  | .tagByte tt ppp dd => { format := .dataByte, word := 0b0#1 ++ tt ++ ppp ++ dd, lines := Lines.zero }

/-- The format in which a bare word of the opcode table is read. DESIGN CHOICE (log entry 3): the table numbers four encoding spaces from
0, so one bare word stands in several rows; the first format of the table's own order that has the word answers. -/
def tableFormat (w : Byte) : Format := if w < 32#8 then .op else .tagState

/-- The operand lines of a bare word of the opcode table: zero. DESIGN CHOICE (log entry 4): the decoder operand of CDEC is the
block's first CRCLP decoder, because decoder 0 is a TAG decoder. -/
def tableLines (w : Byte) : Lines := if w = 0b01100#8 then { Lines.zero with dec := .single 1 } else Lines.zero

/-- The request that presents a bare word of the opcode table. -/
def tableRequest (w : Byte) : Request := { format := tableFormat w, word := w, lines := tableLines w }

/-- The instruction that the decoder reads from a word of `spec/opcode_table.json`, `nbits` bits long, with every operand line idle;
none where no row of the table has a word so long or the decoder refuses it. -/
def decodeTableWord (nbits w : Nat) : Option Instr :=
  let v := w % 2 ^ nbits
  if v < 256 then
    match decode (tableRequest (BitVec.ofNat 8 v)) with
    | .ok i => some i
    | .error _ => none
  else none

end Sys2Proof
end

