-- ==== Sys2Proof/Machine/Fetch.lean ====
section
/-! DEFINITION. How an operation comes to run: the host's next request, and whether the host port admits it (spec R110, R112, R113). -/

namespace Sys2Proof.Machine

/-- The oldest request that the host has issued, and the state without it; none between operations (spec R113, R291). -/
def State.fetch (s : State) : Option (Request × State) :=
  match s.requests with
  | [] => none
  | r :: rest => some (r, { s with requests := rest })

/-- The instruction of a request that the host port admits: its word is an instruction, and an internal one only if `EXPOSE_UOPS` is 1
(spec R112). -/
def admitRequest (c : Params) (r : Request) : Except Refusal Instr :=
  match decode r with
  | .error _ => .error (.undecodable r.format r.word)
  | .ok i => if i.internal && !c.exposeUops then .error (.internalCode r.format r.word) else .ok i

/-- The word of a row of a state map selects that row in the decoder its operand names: STATE is the decoder's program counter (spec R22;
log entry 18). Other formats select nothing. -/
def State.selectRow (s : State) (r : Request) : State :=
  match r.format with
  | .op => s
  | .dataByte => s
  | .tagState | .crclpState =>
    match s.decoder? r.lines.dec with
    | some x => s.setDecoder r.lines.dec (x.setState r.word)
    | none => s

/-- `EXPOSE_UOPS` is set where a request's instruction is internal (log entry 5). -/
def State.exposeFor (s : State) (r : Request) : State :=
  match decode r with
  | .ok i => if i.internal then { s with params := { s.params with exposeUops := true } } else s
  | .error _ => s

/-- All that it takes for the very next step to run a request (log entry 2): it is the oldest request, the port admits it, and a row of
a state map is selected. -/
def State.present (s : State) (r : Request) : State :=
  let t := (s.selectRow r).exposeFor r
  { t with requests := r :: t.requests }

end Sys2Proof.Machine
end

