-- ==== Sys2Proof/Machine/Step.lean ====
section
/-! DEFINITION. One step: the core executes the oldest request of the host, to its end (spec R6, R79). -/

namespace Sys2Proof.Machine

/-- One step. With no request issued the core does nothing and holds its state (spec R291). -/
def step (s : State) : Host.Outcome State Fault Refusal :=
  match s.fetch with
  | none => .next s
  | some (r, s') =>
    match admitRequest s.params r with
    | .error e => .refused e
    | .ok i => exec i s'

/-- The state in which the very next step runs the instruction of a bare word of the opcode table (log entries 2 to 5, 18). -/
def State.withFetchWord (s : State) (nbits w : Nat) : State := s.present (tableRequest (BitVec.ofNat 8 (w % 2 ^ nbits)))

end Sys2Proof.Machine
end

