-- ==== Sys2Proof/Safety.lean ====
section
/-! DEFINITION. What counts as a safe state, in the terms that statements use: the invariants at rest (spec R26, R29 to R31, R36, R153) and
the configuration that no operation writes (R20, R310); and the words in which statements describe a decoder step. -/

namespace Sys2Proof

/-- The decoder operand of the operations and rows that write the decoder instance they name, and write no other part of the block. -/
def Instr.writesDecoder : Instr → Option DecRef
  | .matchOp d _ _ | .wbit d _ | .drst d _ | .tdec d _ | .cdec d _ => some d
  | .tagS0 d _ | .tagS1 d _ | .tagS2 d _ | .tagS3 d _ | .tagS4 d _ | .tagS5 d _ | .tagS6 d _ | .tagS7 d _ | .tagS8 d _ => some d
  | .tagS9 d _ | .tagS10 d _ | .tagS11 d _ | .tagS12 d _ | .tagS13 d _ | .tagS14 d _ | .tagS15 d _ | .tagS16 d _ => some d
  | .tagS17 d _ | .tagOther18 _ d _ | .tagOther20 _ d _ | .tagOther24 _ d _ | .tagOther32 _ d _ | .tagOther64 _ d _ => some d
  | .tagOther128 _ d _ | .crclpS0 d _ | .crclpS1 d _ | .crclpS2 d _ | .crclpOther3 d _ | .crclpOther4 _ d _ => some d
  | .crclpOther8 _ d _ | .crclpOther16 _ d _ | .crclpOther32 _ d _ | .crclpOther64 _ d _ | .crclpOther128 _ d _ => some d
  | .rdlem _ | .rdstr _ | .tenc _ | .tgpk _ _ _ | .tgup _ | .crc8 _ | .recv _ | .mrecv _ | .qbest _ | .qrank _ => none
  | .qwmar _ | .qwstr _ | .send _ _ _ | .reserved0 | .reserved6 _ | .reserved14 _ | .reserved22 _ | .reserved25 => none
  | .reserved26 _ | .reserved28 _ | .tagByte _ _ _ => none

/-- The select code of an operation and its reach (spec R110): `internal` where the host port does not reach it. -/
def Instr.HasCode (i : Instr) (code : BitVec 5) (internal : Bool) : Prop :=
  (encode i).format = .op ∧ (encode i).word = code.setWidth 8 ∧ i.internal = internal

end Sys2Proof

namespace Sys2Proof.Machine

/-- `|observed - expected|` as an integer distance: the error margin of a pulse (spec R14), written without the model's own helper. -/
def deviation (observed expected : Pulse) : Nat := ((observed : Int) - (expected : Int)).natAbs

/-- The number of bits that a Tag decoder at rest has written in the packet in progress (spec R30). -/
def Decoder.tagBits (d : Decoder) : Nat := if d.state.toNat ≤ 2 then 0 else (d.state.toNat - 3) / 2

/-- A decoder instance at rest (spec section "Invariants at rest" of `10_state.md`). -/
structure Decoder.AtRest (d : Decoder) : Prop where
  /-- Bits `BITIDX` down to 0 of `CURBYTE` are 0 (R29). -/
  lowBitsClear : d.curbyte.toNat % 2 ^ (d.bitidx.toNat + 1) = 0
  /-- `MAXERR < ETH` whenever `ETH > 0`, and `MAXERR = 0` when `ETH = 0` (R26). -/
  maxerrBound : d.maxerr < d.eth ∨ (d.eth = 0 ∧ d.maxerr = 0)
  /-- No margin above the threshold is ever recorded (R153). -/
  lasterrBound : ∀ m, d.lasterr = some m → m ≤ d.eth
  /-- In state 0 nothing of a packet is held (R29). -/
  fresh : d.state = 0#8 → d.rbytes = [] ∧ d.curbyte = 0x00#8 ∧ d.bitidx = 7#3 ∧ d.maxerr = 0
  /-- A Tag decoder is in states 0..16, holds no byte, and has the bits that its state says (R30); its threshold is 500 (R21). -/
  tag : d.proto = .tag → d.state.toNat ≤ 16 ∧ d.rbytes = [] ∧ d.bitidx.toNat = 7 - d.tagBits ∧ d.eth = Config.tagEth
  /-- A CRCLP decoder is in states 0..2 and holds no bit outside state 2 (R31). -/
  crclp : d.proto = .crclp → d.state.toNat ≤ 2 ∧ (d.state.toNat < 2 → d.rbytes = [] ∧ d.bitidx = 7#3)

/-- A snapshot entry of a sensor is absent, or a packet's margin with the strength recomputed from it (spec R36, R232). -/
def Sensor.SnapSound (x : Sensor) : Prop :=
  ∀ e, x.snap = some e → e.margin < x.dec.eth ∧ e.strength = strengthOf x.dec.eth e.margin

/-- A multi-sensor receiver at rest: at least one sensor (D31), one protocol and one threshold for all (R34), every decoder at rest, every
snapshot entry sound. -/
structure Multi.AtRest (u : Multi) : Prop where
  someSensor : u.sensors ≠ []
  oneFactory : ∀ x ∈ u.sensors, ∀ y ∈ u.sensors, x.dec.proto = y.dec.proto ∧ x.dec.eth = y.dec.eth
  decoders : ∀ x ∈ u.sensors, x.dec.AtRest
  snapshots : ∀ x ∈ u.sensors, x.SnapSound

/-- The block at rest, with the engine's operations out of the host's reach (R8, R286: the host can change a decoder only by feeding it
pulses). -/
structure State.AtRest (s : State) : Prop where
  uopsHidden : s.params.exposeUops = false
  receivers : ∀ x ∈ s.receivers, x.dec.AtRest
  multis : ∀ u ∈ s.multis, u.AtRest
  sinksWired : ∀ x ∈ s.transmitters, x.sink < s.sinks.length

/-- The configuration fields of a decoder (spec R20). -/
def Decoder.configuration (d : Decoder) : Protocol × Nat := (d.proto, d.eth)

/-- What is fixed at creation (spec R310): the parameters, the units, their protocols, thresholds and wiring. -/
structure Configuration where
  params : Params
  receivers : List (Protocol × Nat)
  multis : List (List (Protocol × Nat))
  transmitters : List Transmitter
  sinkCount : Nat
deriving DecidableEq, Repr

/-- The configuration of a state. -/
def State.configuration (s : State) : Configuration :=
  { params := s.params
    receivers := s.receivers.map fun x => x.dec.configuration
    multis := s.multis.map fun u => u.sensors.map fun x => x.dec.configuration
    transmitters := s.transmitters
    sinkCount := s.sinks.length }

/-- The snapshots of all multi-sensor receivers (spec R36). -/
def State.snapshots (s : State) : List (List (Option SnapEntry)) := s.multis.map Multi.snapshot

/-- The decoder after a matched pulse that writes no bit (spec R130, R162): the deviation is taken in, STATE is `next`. -/
def Decoder.advanced (x : Decoder) (p expected : Pulse) (next : BitVec 8) : Decoder :=
  { x with maxerr := max x.maxerr (deviation p expected), state := next }

/-- The decoder after an abort (spec R276). -/
def Decoder.aborted (x : Decoder) : Decoder :=
  { x with state := 0#8, rbytes := [], curbyte := 0x00#8, bitidx := 7#3, maxerr := 0, lasterr := some x.eth }

/-- The decoder after a completed packet of margin `m` (spec R311). -/
def Decoder.completed (x : Decoder) (m : Nat) : Decoder :=
  { x with state := 0#8, rbytes := [], curbyte := 0x00#8, bitidx := 7#3, maxerr := 0, lasterr := some m }

/-- The state after a protocol step on decoder `d`: the decoder's new record, the packet and the events for the caller; nothing else. -/
def State.stepped (s : State) (d : DecRef) (x : Decoder) (pkt : Option Packet) (events : List Corrupt) : State :=
  (s.setDecoder d x).respond (.packet pkt) events

/-- The pulses of a CRCLP frame over whole bytes (spec R98): header mark, header space, one pulse per bit, most significant first,
lead-out. The spec describes no CRCLP encoder (R200): this is the accepted shape of R201, for statements only. -/
def crclpFrame (bytes : List Byte) : List Pulse :=
  [Config.crcHeaderMark, Config.crcHeaderSpace] ++
    (bytes.flatMap fun b => [7, 6, 5, 4, 3, 2, 1, 0].map fun i => if b.getLsbD i then Config.crcBit1 else Config.crcBit0) ++
    [Config.crcLeadOut]

/-- Pulses observed near a frame's nominal durations, each less than `eth` away (spec R16: the windows). -/
def Near (eth : Nat) (ps nominal : List Pulse) : Prop := List.Forall₂ (fun p e => deviation p e < eth) ps nominal

/-- The largest deviation of observed pulses from nominal ones (spec R26). -/
def worstDeviation (ps nominal : List Pulse) : Nat := (List.zipWith deviation ps nominal).foldl max 0

/-- A sensor whose source never delivers a pulse: nothing is queued, and no coming call finds that anything has landed. -/
def Sensor.silent (x : Sensor) : Prop := x.src.queue = [] ∧ ∀ landed ∈ x.src.arrivals, landed = []

/-- The sensors after one round that completes nothing (spec R231). -/
def roundOf (c : Params) (xs : List Sensor) : List Sensor := xs.map fun x => (x.pull c).sensor

/-- A sensor of a completing round as R234 leaves it: its own LASTERR kept, everything else of its decoder at the reset state. -/
def Decoder.resetKeepingMargin (x : Decoder) : Decoder :=
  { x with state := 0#8, rbytes := [], curbyte := 0x00#8, bitidx := 7#3, maxerr := 0 }

end Sys2Proof.Machine
end

