-- ==== Sys2Proof/Certificates/Slice0/Obligations.lean ====
section
/-! DEFINITION. The statements for the provers. Each docstring names the rule or the section of `spec/` it formalises. -/

open Sys2Proof Sys2Proof.Machine

/-! ### Encoding and the host port -/

/-- Decode and encode agree on every well-formed instruction, with every operand at every value its line admits. The codes are the spec's
(R110, R112, R96, R100, R91); the operand lines are the model's choice (log entry 1). -/
def Obligations.DecodeOfEncode : Prop := ∀ i : Instr, i.wellFormed = true → decode (encode i) = .ok i

/-- Every request that decodes gives a well-formed instruction, and no word of a format has two meanings: the instruction's own encoding
has the request's format and word. That a request has a format, and duration lines 16 bits wide that make every instruction it gives
well-formed, is the model's choice (log entries 1 and 3). -/
def Obligations.DecodedWordIsTheInstructionsOwn : Prop :=
  ∀ (r : Request) (i : Instr), decode r = .ok i →
    i.wellFormed = true ∧ (encode i).format = r.format ∧ (encode i).word = r.word

/-- A few words written out from the spec's encodings decode to the instructions they stand for: WBIT 00010, SEND 11000 (R110), the Tag
row of state 16 (R96), the CRCLP row of state 2 (R100), the tag byte 0x52 (R91, R170). The operand lines are the model's choice (log
entry 1). -/
def Obligations.WordsDecodeAsWritten : Prop :=
  decode { format := .op, word := 0b00000010#8, lines := { Lines.zero with dec := .sensor 0 2, bit := 1 } } = .ok (.wbit (.sensor 0 2) 1) ∧
  decode { format := .op, word := 0b00011000#8, lines := { Lines.zero with byte := 0x52#8, sink := some 1 } }
    = .ok (.send 0 (.byte 0x52#8) (some 1)) ∧
  decode { format := .tagState, word := 0b00010000#8, lines := { Lines.zero with dur0 := 1000#16 } } = .ok (.tagS16 (.single 0) 1000) ∧
  decode { format := .crclpState, word := 0b00000010#8, lines := { Lines.zero with dec := .single 1, dur0 := 5000#16 } }
    = .ok (.crclpS2 (.single 1) 5000) ∧
  decode { format := .dataByte, word := 0b01010010#8, lines := Lines.zero } = .ok (.tagByte 0b10#2 0b100#3 0b10#2)

/-- R110: the select codes of the 18 operations, and which of them the host port reaches (`EXPOSE_UOPS = 0`, D3). -/
def Obligations.SelectCodesAndReach : Prop :=
  ∀ (d : DecRef) (o e : Pulse) (b : BitVec 1) (m : Option Pulse) (byte : Byte) (team player damage : Int) (bytes : List Byte) (n : Nat)
    (data : SendData) (k : Option Nat),
    (Instr.matchOp d o e).HasCode 0b00001#5 true ∧ (Instr.wbit d b).HasCode 0b00010#5 true ∧ (Instr.drst d m).HasCode 0b00011#5 true ∧
    (Instr.rdlem d).HasCode 0b00100#5 false ∧ (Instr.rdstr d).HasCode 0b00101#5 false ∧ (Instr.tdec d o).HasCode 0b01000#5 true ∧
    (Instr.tenc byte).HasCode 0b01001#5 true ∧ (Instr.tgpk team player damage).HasCode 0b01010#5 false ∧
    (Instr.tgup byte).HasCode 0b01011#5 false ∧ (Instr.cdec d o).HasCode 0b01100#5 true ∧ (Instr.crc8 bytes).HasCode 0b01101#5 true ∧
    (Instr.recv n).HasCode 0b10000#5 false ∧ (Instr.mrecv n).HasCode 0b10001#5 false ∧ (Instr.qbest n).HasCode 0b10010#5 false ∧
    (Instr.qrank n).HasCode 0b10011#5 false ∧ (Instr.qwmar n).HasCode 0b10100#5 false ∧ (Instr.qwstr n).HasCode 0b10101#5 false ∧
    (Instr.send n data k).HasCode 0b11000#5 false

/-- R112: the 14 reserved codes are refused whatever the state, and so is an internal code while `EXPOSE_UOPS` is 0: the step gives no
next state. The seven RESERVED rows refuse by the same name. -/
def Obligations.ReservedAndInternalCodesAreRefused : Prop :=
  (∀ s : State, exec .reserved0 s = .refused (.reservedCode 0b00000#5) ∧ exec .reserved25 s = .refused (.reservedCode 0b11001#5)) ∧
  (∀ (s : State) (x : BitVec 1), exec (.reserved6 x) s = .refused (.reservedCode (0b0011#4 ++ x)) ∧
    exec (.reserved14 x) s = .refused (.reservedCode (0b0111#4 ++ x)) ∧ exec (.reserved22 x) s = .refused (.reservedCode (0b1011#4 ++ x)) ∧
    exec (.reserved26 x) s = .refused (.reservedCode (0b1101#4 ++ x))) ∧
  (∀ (s : State) (x : BitVec 2), exec (.reserved28 x) s = .refused (.reservedCode (0b111#3 ++ x))) ∧
  (∀ (s : State) (l : Lines) (rest : List Request) (code : BitVec 5),
    s.requests = { format := .op, word := code.setWidth 8, lines := l } :: rest →
      code.toNat ∈ [0, 6, 7, 14, 15, 22, 23, 25, 26, 27, 28, 29, 30, 31] → step s = .refused (.reservedCode code)) ∧
  (∀ (s : State) (l : Lines) (rest : List Request) (code : BitVec 5),
    s.requests = { format := .op, word := code.setWidth 8, lines := l } :: rest → s.params.exposeUops = false →
      code.toNat ∈ [1, 2, 3, 8, 9, 12, 13] → step s = .refused (.internalCode .op (code.setWidth 8)))

/-- A step runs the decoded instruction: when the host's oldest request decodes to an instruction that the host port admits, the step is
exec of it on the state without that request. With no request the core holds its state (R291). The request list is the model's
(log entry 2). -/
def Obligations.StepRunsTheOldestRequest : Prop :=
  (∀ (s : State) (r : Request) (rest : List Request) (i : Instr), s.requests = r :: rest → decode r = .ok i →
    (i.internal = false ∨ s.params.exposeUops = true) → step s = exec i { s with requests := rest }) ∧
  (∀ s : State, s.requests = [] → step s = .next s)

/-- Operands that name no unit of the block, a decoder of the other protocol, a row of a state map that STATE does not select, or data that
is not one byte under TAG are refused by name, for every operation and every row. The model's choice (log entries 18 and 20). -/
def Obligations.UnfitOperandsAreRefused : Prop :=
  (∀ (s : State) (d : DecRef), s.decoder? d = none →
    ∀ i : Instr, i.writesDecoder = some d ∨ i = .rdlem d ∨ i = .rdstr d → exec i s = .refused (.noSuchDecoder d)) ∧
  (∀ (s : State) (d : DecRef) (x : Decoder) (p : Pulse), s.decoder? d = some x →
    (x.proto = .crclp → exec (.tdec d p) s = .refused (.wrongProtocol d) ∧
      ∀ w : Byte, exec (decodeTagState w d p) s = .refused (.wrongProtocol d)) ∧
    (x.proto = .tag → exec (.cdec d p) s = .refused (.wrongProtocol d) ∧
      ∀ w : Byte, exec (decodeCrclpState w d p) s = .refused (.wrongProtocol d)) ∧
    (x.proto = .tag → ∀ w : Byte, x.state ≠ w → exec (decodeTagState w d p) s = .refused (.rowNotSelected d w)) ∧
    (x.proto = .crclp → ∀ w : Byte, x.state ≠ w → exec (decodeCrclpState w d p) s = .refused (.rowNotSelected d w))) ∧
  (∀ (s : State) (n : Nat), (s.receivers[n]? = none → exec (.recv n) s = .refused (.noSuchUnit n)) ∧
    (s.multis[n]? = none → ∀ i ∈ [Instr.mrecv n, .qbest n, .qrank n, .qwmar n, .qwstr n], exec i s = .refused (.noSuchUnit n)) ∧
    (s.transmitters[n]? = none → ∀ (a : SendData) (k : Option Nat), exec (.send n a k) s = .refused (.noSuchUnit n))) ∧
  (∀ (s : State) (t : Nat) (x : Transmitter), s.transmitters[t]? = some x → x.proto = .tag →
    (∀ (bs : List Byte) (k : Option Nat), exec (.send t (.bytes bs) k) s = .refused .dataIsNoByte) ∧
    (∀ (b : Byte) (k : Option Nat), s.sinks[k.getD x.sink]? = none →
      exec (.send t (.byte b) k) s = .refused (.noSuchSink (k.getD x.sink))))

/-! ### Reset, invariants, configuration -/

/-- R40: every decoder of the block at creation, and every snapshot entry. TAG gives `ETH = 500`. The model's own
fields are empty: no request is pending and nothing has been answered (log entries 2 and 6). Which units the block has is the model's
choice too (log entry 11). -/
def Obligations.ResetIsCreation : Prop :=
  (∀ (d : DecRef) (x : Decoder), State.reset.decoder? d = some x →
    x.state = 0#8 ∧ x.rbytes = [] ∧ x.bitidx = 7#3 ∧ x.curbyte = 0x00#8 ∧ x.maxerr = 0 ∧ x.lasterr = none ∧
      (x.proto = .tag → x.eth = 500)) ∧
  (∀ snap ∈ State.reset.snapshots, ∀ e ∈ snap, e = none) ∧
  State.reset.params.exposeUops = false ∧ State.reset.response = none ∧ State.reset.requests = []

/-- The invariants at rest hold of the block at reset. -/
def Obligations.ResetIsAtRest : Prop := State.reset.AtRest

/-- The invariants at rest (R26, R29 to R31, R36, R153 and the configuration's own) are kept by every step. The spec derives them (its
"[derived]" marks in `10_state.md`). -/
def Obligations.EveryStepKeepsTheBlockAtRest : Prop := ∀ s t : State, s.AtRest → step s = .next t → t.AtRest

/-- "fixed at creation" (R20, R21, R310): no operation, internal ones included, writes a protocol, a threshold, a parameter, the wiring
or the number of units. -/
def Obligations.EveryStepKeepsTheConfiguration : Prop := ∀ s t : State, step s = .next t → t.configuration = s.configuration

/-- R36: "Written only by MRECV": no other instruction writes a snapshot entry of any multi-sensor receiver. -/
def Obligations.OnlyMrecvWritesSnapshots : Prop :=
  ∀ (i : Instr) (s t : State), (∀ m, i ≠ .mrecv m) → exec i s = .next t → t.snapshots = s.snapshots

/-- R32, fact 3: the valid bit of `LASTERR`, once set, stays set in every step that the host can make. -/
def Obligations.LasterrStaysValid : Prop :=
  ∀ (s t : State) (d : DecRef) (x y : Decoder), s.params.exposeUops = false → step s = .next t →
    s.decoder? d = some x → t.decoder? d = some y → x.lasterr.isSome = true → y.lasterr.isSome = true

/-- The frame of the operations and rows that write one decoder instance: every other decoder, every source, every snapshot, the
transmitters, the sinks, the parameters and the pending requests are as before. -/
def Obligations.DecoderOperationsFrame : Prop :=
  ∀ (i : Instr) (d : DecRef) (s t : State), i.writesDecoder = some d → exec i s = .next t →
    (∀ d', d' ≠ d → t.decoder? d' = s.decoder? d') ∧ (∀ d', t.source? d' = s.source? d') ∧ t.snapshots = s.snapshots ∧
      t.transmitters = s.transmitters ∧ t.sinks = s.sinks ∧ t.params = s.params ∧ t.requests = s.requests

/-! ### The decoder engine -/

/-- R130: MATCH. On a true result only `MAXERR` is written, on a false one nothing. -/
def Obligations.MatchTracksTheWorstDeviation : Prop :=
  ∀ (s : State) (d : DecRef) (x : Decoder) (o e : Pulse), s.decoder? d = some x →
    (Instr.matchOp d o e).HasCode 0b00001#5 true ∧
    exec (.matchOp d o e) s =
      .next (if deviation o e < x.eth then (s.setDecoder d { x with maxerr := max x.maxerr (deviation o e) }).respond (.flag true) []
        else s.respond (.flag false) [])

/-- R131: the comparison is strict, on both sides of the expected duration; and a MATCH keeps `MAXERR` at `ETH - 1` or below. -/
def Obligations.MatchBoundaryIsStrict : Prop :=
  ∀ (s : State) (d : DecRef) (x : Decoder) (e : Pulse), s.decoder? d = some x → 1 ≤ x.eth →
    (∃ t, exec (.matchOp d (e + (x.eth - 1)) e) s = .next t ∧ t.response = some { result := .flag true, events := [] }) ∧
    (x.eth - 1 ≤ e → ∃ t, exec (.matchOp d (e - (x.eth - 1)) e) s = .next t ∧ t.response = some { result := .flag true, events := [] }) ∧
    (∃ t, exec (.matchOp d (e + x.eth) e) s = .next t ∧ t.response = some { result := .flag false, events := [] }) ∧
    (x.eth ≤ e → ∃ t, exec (.matchOp d (e - x.eth) e) s = .next t ∧ t.response = some { result := .flag false, events := [] }) ∧
    (x.maxerr ≤ x.eth - 1 → ∀ o, ∃ t y, exec (.matchOp d o e) s = .next t ∧ t.decoder? d = some y ∧ y.maxerr ≤ x.eth - 1)

/-- R132 (which the spec derives): the window of `e` under a threshold of at least 1 is `max(0, e - T + 1) <= o <= e + T - 1`; under a
threshold of 0 nothing matches. -/
def Obligations.MatchWindow : Prop :=
  ∀ (s : State) (d : DecRef) (x : Decoder) (o e : Pulse), s.decoder? d = some x →
    ∃ t, exec (.matchOp d o e) s = .next t ∧
      t.response = some { result := .flag (decide (1 ≤ x.eth ∧ e + 1 ≤ o + x.eth ∧ o + 1 ≤ e + x.eth)), events := [] }

/-- R133: WBIT. -/
def Obligations.WbitWritesMostSignificantFirst : Prop :=
  ∀ (s : State) (d : DecRef) (x : Decoder) (b : BitVec 1), s.decoder? d = some x →
    (Instr.wbit d b).HasCode 0b00010#5 true ∧
    (let cur := x.curbyte ||| (b.setWidth 8 <<< x.bitidx.toNat)
     exec (.wbit d b) s =
      .next ((s.setDecoder d (if x.bitidx = 0#3 then { x with rbytes := x.rbytes ++ [cur], curbyte := 0x00#8, bitidx := 7#3 }
        else { x with curbyte := cur, bitidx := x.bitidx - 1#3 })).respond .unit []))

/-- R152: eight WBIT calls in a row with the bits `b7, …, b0`, from `BITIDX = 7`, append the one byte whose bit `i` is `bi`. -/
def Obligations.EightWbitsAppendTheByte : Prop :=
  ∀ (x : Decoder) (b : Byte), x.bitidx = 7#3 → x.curbyte = 0x00#8 →
    [7, 6, 5, 4, 3, 2, 1, 0].foldl (fun (y : Decoder) i => y.wbit (BitVec.ofBool (b.getLsbD i))) x = { x with rbytes := x.rbytes ++ [b] }

/-- R134: DRST writes all six state fields and does not touch the configuration. -/
def Obligations.DrstResetsEverythingButTheConfiguration : Prop :=
  ∀ (s : State) (d : DecRef) (x : Decoder) (m : Option Pulse), s.decoder? d = some x →
    (Instr.drst d m).HasCode 0b00011#5 true ∧
    exec (.drst d m) s =
      .next ((s.setDecoder d { x with state := 0#8, rbytes := [], curbyte := 0x00#8, bitidx := 7#3, lasterr := m, maxerr := 0 }).respond
        .unit [])

/-- R135: RDLEM returns `LASTERR` unchanged and writes nothing. -/
def Obligations.RdlemReturnsLasterr : Prop :=
  ∀ (s : State) (d : DecRef) (x : Decoder), s.decoder? d = some x →
    (Instr.rdlem d).HasCode 0b00100#5 false ∧ exec (.rdlem d) s = .next (s.respond (.margin x.lasterr) [])

/-- R136: RDSTR returns absent without a recorded margin, full strength for margin 0, and the clamped formula otherwise; it writes nothing.
Under a threshold of 0 a nonzero margin is never recorded (R136); that case has its own statement. -/
def Obligations.RdstrFollowsTheFormula : Prop :=
  ∀ (s : State) (d : DecRef) (x : Decoder), s.decoder? d = some x →
    (Instr.rdstr d).HasCode 0b00101#5 false ∧
    (x.lasterr = none → exec (.rdstr d) s = .next (s.respond (.strength none) [])) ∧
    (x.lasterr = some 0 → exec (.rdstr d) s = .next (s.respond (.strength (some 1)) [])) ∧
    (∀ v, x.lasterr = some v → v ≠ 0 → x.eth ≠ 0 →
      exec (.rdstr d) s = .next (s.respond (.strength (some (max 0 (min 1 (13 / 10 - (v : Rat) / (x.eth : Rat)))))) []))

/-- The model's choice (log entry 15): on a decoder of threshold 0 that holds a nonzero margin, which no run reaches, the spec states no
strength; RDSTR still completes, with some strength in [0,1], and writes nothing. -/
def Obligations.RdstrCompletesUnderThresholdZero : Prop :=
  ∀ (s : State) (d : DecRef) (x : Decoder) (v : Nat), s.decoder? d = some x → x.lasterr = some v → v ≠ 0 → x.eth = 0 →
    ∃ r : Rat, 0 ≤ r ∧ r ≤ 1 ∧ exec (.rdstr d) s = .next (s.respond (.strength (some r)) [])

/-- R137: the values of the strength under a threshold of at least 1: full up to three tenths of the threshold, then linear, then 0; 3/10
at the threshold, and never less for a margin that a reset can record. -/
def Obligations.StrengthIsPiecewiseLinear : Prop :=
  ∀ T v : Nat, 1 ≤ T →
    (10 * v ≤ 3 * T → strengthOf T v = 1) ∧
    (3 * T < 10 * v → 10 * v < 13 * T → strengthOf T v = 13 / 10 - (v : Rat) / (T : Rat)) ∧
    (13 * T ≤ 10 * v → strengthOf T v = 0) ∧
    strengthOf T T = 3 / 10 ∧ (v ≤ T → 3 / 10 ≤ strengthOf T v)

/-! ### The Tag protocol -/

/-- R96 as the dispatch table of R161: TDEC on a Tag decoder is the row of the Tag state map that its STATE selects. -/
def Obligations.TdecRunsTheRowOfItsState : Prop :=
  ∀ (s : State) (d : DecRef) (x : Decoder) (p : Pulse), s.decoder? d = some x → x.proto = .tag →
    (Instr.tdec d p).HasCode 0b01000#5 true ∧ exec (.tdec d p) s = exec (decodeTagState x.state d p) s

/-- R162: the preamble states 0, 1, 2 expect 3000, 6000, 3000; a match advances, a mismatch aborts and emits nothing. Both as the row and
as TDEC. -/
def Obligations.TagPreambleStates : Prop :=
  ∀ (s : State) (d : DecRef) (x : Decoder) (p : Pulse), s.decoder? d = some x → x.proto = .tag →
    ∀ z ∈ [(0#8, 3000, Instr.tagS0 d p), (1#8, 6000, .tagS1 d p), (2#8, 3000, .tagS2 d p)], x.state = z.1 → ∀ i ∈ [z.2.2, .tdec d p],
      exec i s = .next (if deviation p z.2.1 < x.eth then s.stepped d (x.advanced p z.2.1 (x.state + 1#8)) none []
        else s.stepped d x.aborted none [])

/-- R163: the data mark states expect 2000; a match writes no bit and advances, a mismatch aborts. -/
def Obligations.TagDataMarkStates : Prop :=
  ∀ (s : State) (d : DecRef) (x : Decoder) (p : Pulse), s.decoder? d = some x → x.proto = .tag →
    ∀ z ∈ [(3#8, Instr.tagS3 d p), (5#8, .tagS5 d p), (7#8, .tagS7 d p), (9#8, .tagS9 d p), (11#8, .tagS11 d p), (13#8, .tagS13 d p),
        (15#8, .tagS15 d p)], x.state = z.1 → ∀ i ∈ [z.2, .tdec d p],
      exec i s = .next (if deviation p 2000 < x.eth then s.stepped d (x.advanced p 2000 (x.state + 1#8)) none []
        else s.stepped d x.aborted none [])

/-- R164 in the data space states before the last: the "one" space writes bit 1, else the "zero" space writes bit 0, a match on neither
aborts; STATE advances after a matched pulse. -/
def Obligations.TagDataSpaceStates : Prop :=
  ∀ (s : State) (d : DecRef) (x : Decoder) (p : Pulse), s.decoder? d = some x → x.proto = .tag →
    ∀ z ∈ [(4#8, Instr.tagS4 d p), (6#8, .tagS6 d p), (8#8, .tagS8 d p), (10#8, .tagS10 d p), (12#8, .tagS12 d p), (14#8, .tagS14 d p)],
      x.state = z.1 → ∀ i ∈ [z.2, .tdec d p],
      exec i s = .next (
        if deviation p 2000 < x.eth then s.stepped d ((x.advanced p 2000 (x.state + 1#8)).wbit 1#1) none []
        else if deviation p 1000 < x.eth then s.stepped d ((x.advanced p 1000 (x.state + 1#8)).wbit 0#1) none []
        else s.stepped d x.aborted none [])

/-- R165 and R167: the last data space completes the packet in the same step. On a decoder at rest the byte returned is `CURBYTE` with the
decided bit at position 1, shifted right by one; the margin recorded is the largest deviation of the packet. -/
def Obligations.TagLastSpaceCompletesThePacket : Prop :=
  ∀ (s : State) (d : DecRef) (x : Decoder) (p : Pulse), s.decoder? d = some x → x.proto = .tag → x.state = 16#8 → x.AtRest →
    ∀ i ∈ [Instr.tagS16 d p, .tdec d p],
      exec i s = .next (
        if deviation p 2000 < x.eth then
          s.stepped d (x.completed (max x.maxerr (deviation p 2000))) (some [(x.curbyte ||| 0x02#8) >>> 1]) []
        else if deviation p 1000 < x.eth then s.stepped d (x.completed (max x.maxerr (deviation p 1000))) (some [x.curbyte >>> 1]) []
        else s.stepped d x.aborted none [])

/-- R168: a pulse that arrives in state 17 is not tested; the completion runs on whatever the bit writer holds, and aborts if no byte is
then assembled. -/
def Obligations.TagPulseInCompletionState : Prop :=
  ∀ (s : State) (d : DecRef) (x : Decoder) (p : Pulse), s.decoder? d = some x → x.proto = .tag → x.state = 17#8 →
    ∀ i ∈ [Instr.tagS17 d p, .tdec d p],
      ((x.wbit 0#1).rbytes = [] → exec i s = .next (s.stepped d x.aborted none [])) ∧
      (∀ b bs, (x.wbit 0#1).rbytes = b :: bs → exec i s = .next (s.stepped d (x.completed x.maxerr) (some [b >>> 1]) []))

/-- R166: "Any other state value is a defensive error path: abort." -/
def Obligations.TagOtherStatesAbort : Prop :=
  ∀ (s : State) (d : DecRef) (x : Decoder) (p : Pulse), s.decoder? d = some x → x.proto = .tag →
    (18 ≤ x.state.toNat → exec (.tdec d p) s = .next (s.stepped d x.aborted none [])) ∧
    (∀ v : BitVec 1, x.state = 0b0001001#7 ++ v → exec (.tagOther18 v d p) s = .next (s.stepped d x.aborted none [])) ∧
    (∀ v : BitVec 2, x.state = 0b000101#6 ++ v → exec (.tagOther20 v d p) s = .next (s.stepped d x.aborted none [])) ∧
    (∀ v : BitVec 3, x.state = 0b00011#5 ++ v → exec (.tagOther24 v d p) s = .next (s.stepped d x.aborted none [])) ∧
    (∀ v : BitVec 5, x.state = 0b001#3 ++ v → exec (.tagOther32 v d p) s = .next (s.stepped d x.aborted none [])) ∧
    (∀ v : BitVec 6, x.state = 0b01#2 ++ v → exec (.tagOther64 v d p) s = .next (s.stepped d x.aborted none [])) ∧
    (∀ v : BitVec 7, x.state = 0b1#1 ++ v → exec (.tagOther128 v d p) s = .next (s.stepped d x.aborted none []))

/-- What the spec derives of TDEC (R173), and which margin it records (R165, R168, R276): it always completes; it returns a packet only from
states 16 and 17; a packet has exactly one byte, and its bit 7 is 0. With a packet the margin recorded is the largest deviation of the
packet, the pulse that completed it included where it was tested; without one the recorded margin is as before, or the threshold. -/
def Obligations.TdecPacketsAreOneSevenBitByte : Prop :=
  ∀ (s : State) (d : DecRef) (x : Decoder) (p : Pulse), s.decoder? d = some x → x.proto = .tag →
    ∃ (y : Decoder) (pkt : Option Packet), exec (.tdec d p) s = .next (s.stepped d y pkt []) ∧
      (∀ k, pkt = some k → (∃ b : Byte, k = [b] ∧ b.getLsbD 7 = false) ∧
        ((x.state = 17#8 ∧ y.lasterr = some x.maxerr) ∨
          (x.state = 16#8 ∧ deviation p 2000 < x.eth ∧ y.lasterr = some (max x.maxerr (deviation p 2000))) ∨
          (x.state = 16#8 ∧ ¬ deviation p 2000 < x.eth ∧ deviation p 1000 < x.eth ∧
            y.lasterr = some (max x.maxerr (deviation p 1000))))) ∧
      (pkt = none → y.lasterr = x.lasterr ∨ y.lasterr = some x.eth)

/-- R169: TENC emits the preamble and, for the bits 6 down to 0, a mark and the bit's space: 17 durations; bit 7 is not looked at; no state
is written. -/
def Obligations.TencEmitsTheFrame : Prop :=
  ∀ (s : State) (b : Byte), ∃ seq : List Pulse,
    exec (.tenc b) s = .next (s.respond (.pulses seq) []) ∧ (Instr.tenc b).HasCode 0b01001#5 true ∧
    seq = [3000, 6000, 3000, 2000, if b.getLsbD 6 then 2000 else 1000, 2000, if b.getLsbD 5 then 2000 else 1000,
      2000, if b.getLsbD 4 then 2000 else 1000, 2000, if b.getLsbD 3 then 2000 else 1000,
      2000, if b.getLsbD 2 then 2000 else 1000, 2000, if b.getLsbD 1 then 2000 else 1000,
      2000, if b.getLsbD 0 then 2000 else 1000] ∧
    exec (.tenc (b &&& 0x7F#8)) s = exec (.tenc b) s

/-- R170: TGPK packs legal fields and raises RangeError on all others, changing no state. -/
def Obligations.TgpkPacksOrRaises : Prop :=
  ∀ (s : State) (team player damage : Int),
    (Instr.tgpk team player damage).HasCode 0b01010#5 false ∧
    exec (.tgpk team player damage) s =
      .next (if team < 0 ∨ team > 3 ∨ player < 1 ∨ player > 8 ∨ damage < 1 ∨ damage > 4 then s.respond (.raised .rangeError) []
        else s.respond (.byte (BitVec.ofInt 8 (team * 32 + (player - 1) * 4 + (damage - 1)))) [])

/-- R171: TGUP reads the fields of a byte; bit 7 is ignored; every byte gives fields inside their ranges; no state is written. -/
def Obligations.TgupReadsTheFields : Prop :=
  ∀ (s : State) (b : Byte), ∃ f : TagData,
    exec (.tgup b) s = .next (s.respond (.tag f) []) ∧ (Instr.tgup b).HasCode 0b01011#5 false ∧
    f.team = ((b.toNat / 32 % 4 : Nat) : Int) ∧ f.player = 1 + ((b.toNat / 4 % 8 : Nat) : Int) ∧
    f.damage = 1 + ((b.toNat % 4 : Nat) : Int) ∧ f.legal = true ∧ exec (.tgup (b &&& 0x7F#8)) s = exec (.tgup b) s

/-- R91: the tag byte `0ttpppdd`. Its row gives the TagData it stands for, as TGUP does of the same byte, and TGPK packs that TagData into
the byte. (That the row can be presented at all is the model's choice, log entry 19.) -/
def Obligations.TagByteStandsForItsFields : Prop :=
  ∀ (s : State) (tt : BitVec 2) (ppp : BitVec 3) (dd : BitVec 2),
    exec (.tagByte tt ppp dd) s =
      .next (s.respond (.tag { team := (tt.toNat : Int), player := 1 + (ppp.toNat : Int), damage := 1 + (dd.toNat : Int) }) []) ∧
    (encode (.tagByte tt ppp dd)).word.toNat = tt.toNat * 32 + ppp.toNat * 4 + dd.toNat ∧
    exec (.tgup (encode (.tagByte tt ppp dd)).word) s = exec (.tagByte tt ppp dd) s ∧
    exec (.tgpk (tt.toNat : Int) (1 + (ppp.toNat : Int)) (1 + (dd.toNat : Int))) s =
      .next (s.respond (.byte (encode (.tagByte tt ppp dd)).word) [])

/-- The codec's round trips (source §8 first bullet; R172 and R93, in part derived): for legal TagData TGUP of what TGPK answers is the
TagData and the byte is below 0x80; for every byte, TGPK of what TGUP answers is the byte without bit 7. -/
def Obligations.TagCodecRoundTrips : Prop :=
  (∀ (s : State) (f : TagData), f.legal = true → ∃ b : Byte, b.toNat < 128 ∧
    exec (.tgpk f.team f.player f.damage) s = .next (s.respond (.byte b) []) ∧ exec (.tgup b) s = .next (s.respond (.tag f) [])) ∧
  (∀ (s : State) (b : Byte), ∃ f : TagData, exec (.tgup b) s = .next (s.respond (.tag f) []) ∧
    exec (.tgpk f.team f.player f.damage) s = .next (s.respond (.byte (b &&& 0x7F#8)) []))

/-- The whole Tag pipeline under jitter (source §8 second bullet; R165, R172): any 17 pulses, each inside the window of TENC's duration,
fed to a Tag decoder in its reset state return absent 16 times and then the byte without bit 7, and the margin recorded is the
worst of the 17 deviations. -/
def Obligations.TagFrameWithinTheWindowsDecodes : Prop :=
  ∀ (c : Params) (x : Decoder) (b : Byte) (ps : List Pulse), x.AtRest → x.proto = .tag → x.state = 0#8 →
    Near x.eth ps (tagEncode b) →
      x.feed c ps = (x.completed (worstDeviation ps (tagEncode b)), List.replicate 16 none ++ [some [b &&& 0x7F#8]])

/-! ### The CRCLP protocol -/

/-- R193: in state 0 a pulse that does not match 4000 is discarded and nothing at all is written; a match moves to state 1. Both as the row
and as CDEC. -/
def Obligations.CrclpSeekState : Prop :=
  ∀ (s : State) (d : DecRef) (x : Decoder) (p : Pulse), s.decoder? d = some x → x.proto = .crclp → x.state = 0#8 →
    ∀ i ∈ [Instr.crclpS0 d p, .cdec d p],
      exec i s = .next (if deviation p 4000 < x.eth then s.stepped d (x.advanced p 4000 1#8) none [] else s.respond (.packet none) [])

/-- R194: in state 1 a pulse that matches 3000 moves to state 2; any other aborts. -/
def Obligations.CrclpHeaderState : Prop :=
  ∀ (s : State) (d : DecRef) (x : Decoder) (p : Pulse), s.decoder? d = some x → x.proto = .crclp → x.state = 1#8 →
    ∀ i ∈ [Instr.crclpS1 d p, .cdec d p],
      exec i s = .next (if deviation p 3000 < x.eth then s.stepped d (x.advanced p 3000 2#8) none [] else s.stepped d x.aborted none [])

/-- R195: in state 2 a pulse that is no lead-out writes bit 1 if it matches 1500, else bit 0 if it matches 500, and STATE stays 2; a match
on none aborts. -/
def Obligations.CrclpBitPulses : Prop :=
  ∀ (s : State) (d : DecRef) (x : Decoder) (p : Pulse), s.decoder? d = some x → x.proto = .crclp → x.state = 2#8 →
    ¬ deviation p 5000 < x.eth → ∀ i ∈ [Instr.crclpS2 d p, .cdec d p],
      exec i s = .next (
        if deviation p 1500 < x.eth then s.stepped d ((x.advanced p 1500 2#8).wbit 1#1) none []
        else if deviation p 500 < x.eth then s.stepped d ((x.advanced p 500 2#8).wbit 0#1) none []
        else s.stepped d x.aborted none [])

/-- R196: at the lead-out, fewer than 2 bytes abort with CORRUPT(short); otherwise the last byte is the received CRC: on equality the
rest is returned and the packet's margin recorded, on inequality the decoder aborts with CORRUPT(crc). -/
def Obligations.CrclpLeadOut : Prop :=
  ∀ (s : State) (d : DecRef) (x : Decoder) (p : Pulse), s.decoder? d = some x → x.proto = .crclp → x.state = 2#8 →
    deviation p 5000 < x.eth → ∀ i ∈ [Instr.crclpS2 d p, .cdec d p],
      (x.rbytes.length < 2 → exec i s = .next (s.stepped d x.aborted none [.short])) ∧
      (∀ payload rx, x.rbytes = payload ++ [rx] → payload ≠ [] →
        exec i s = .next (
          if crc8 s.params payload = rx then s.stepped d (x.completed (max x.maxerr (deviation p 5000))) (some payload) []
          else s.stepped d x.aborted none [.crc]))

/-- R199: a CRCLP decoder with `STATE >= 3` aborts on the next pulse. -/
def Obligations.CrclpOtherStatesAbort : Prop :=
  ∀ (s : State) (d : DecRef) (x : Decoder) (p : Pulse), s.decoder? d = some x → x.proto = .crclp →
    (3 ≤ x.state.toNat → exec (.cdec d p) s = .next (s.stepped d x.aborted none [])) ∧
    (x.state = 3#8 → exec (.crclpOther3 d p) s = .next (s.stepped d x.aborted none [])) ∧
    (∀ v : BitVec 2, x.state = 0b000001#6 ++ v → exec (.crclpOther4 v d p) s = .next (s.stepped d x.aborted none [])) ∧
    (∀ v : BitVec 3, x.state = 0b00001#5 ++ v → exec (.crclpOther8 v d p) s = .next (s.stepped d x.aborted none [])) ∧
    (∀ v : BitVec 4, x.state = 0b0001#4 ++ v → exec (.crclpOther16 v d p) s = .next (s.stepped d x.aborted none [])) ∧
    (∀ v : BitVec 5, x.state = 0b001#3 ++ v → exec (.crclpOther32 v d p) s = .next (s.stepped d x.aborted none [])) ∧
    (∀ v : BitVec 6, x.state = 0b01#2 ++ v → exec (.crclpOther64 v d p) s = .next (s.stepped d x.aborted none [])) ∧
    (∀ v : BitVec 7, x.state = 0b1#1 ++ v → exec (.crclpOther128 v d p) s = .next (s.stepped d x.aborted none []))

/-- CRC8's step by step (R197; that a byte enters by XOR is the spec's general knowledge, G1, log entry 13): from `CRC_INIT`, byte by byte,
eight shifts each, the polynomial 0x1D XORed in when a 1 is shifted out, and the final XOR; no state is written. -/
def Obligations.Crc8IsBytewiseLeftShift : Prop :=
  ∀ (s : State) (bytes : List Byte), ∃ shift : Byte → Byte,
    (∀ r : Byte, shift r = if r.toNat < 128 then r <<< 1 else (r <<< 1) ^^^ 0x1D#8) ∧
    (Instr.crc8 bytes).HasCode 0b01101#5 true ∧
    exec (.crc8 bytes) s =
      .next (s.respond (.byte (bytes.foldl (fun r x => shift (shift (shift (shift (shift (shift (shift (shift (r ^^^ x)))))))))
        s.params.crcInit ^^^ s.params.crcXorOut)) [])

/-- The CRC catches every error confined to one byte, whatever `CRC_INIT` and `CRC_XOROUT` are (from R197's recurrence; log entry 13). -/
def Obligations.CrcDetectsOneByteErrors : Prop :=
  ∀ (c : Params) (before after : List Byte) (x y : Byte), x ≠ y → crc8 c (before ++ [x] ++ after) ≠ crc8 c (before ++ [y] ++ after)

/-- The whole CRCLP pipeline under jitter (R201, which the spec derives; R196, R198): the pulses of a frame of at least 2 bytes, each
inside its window, fed under a threshold of at most 500 to a CRCLP decoder in its reset state return nothing before the lead-out;
at the lead-out the payload comes back exactly when the last byte is its CRC, with the worst deviation recorded, and otherwise the
decoder has aborted. -/
def Obligations.CrclpFrameWithinTheWindowsDecodes : Prop :=
  ∀ (c : Params) (x : Decoder) (payload : List Byte) (rx : Byte) (ps : List Pulse), x.AtRest → x.proto = .crclp → x.state = 0#8 →
    x.eth ≤ 500 → payload ≠ [] → Near x.eth ps (crclpFrame (payload ++ [rx])) →
      x.feed c ps =
        (if crc8 c payload = rx then
          (x.completed (worstDeviation ps (crclpFrame (payload ++ [rx]))), List.replicate (ps.length - 1) none ++ [some payload])
        else (x.aborted, List.replicate ps.length none))

/-! ### The receivers and the arbiter -/

/-- R61, R62: `NextPulse` removes and returns the oldest duration; on an empty queue it answers absent and changes nothing of the queue.
What the environment adds (R64) lands at the tail; what has just landed in an empty queue is the oldest there is (R83). -/
def Obligations.NextPulseIsFifo : Prop :=
  (∀ (p : Pulse) (q : List Pulse) (later : List (List Pulse)) (now : List Pulse),
    Source.nextPulse { queue := p :: q, arrivals := now :: later } = (some p, { queue := q ++ now, arrivals := later })) ∧
  (∀ (p : Pulse) (q : List Pulse), Source.nextPulse { queue := p :: q, arrivals := [] } = (some p, { queue := q, arrivals := [] })) ∧
  (∀ (p : Pulse) (now : List Pulse) (later : List (List Pulse)),
    Source.nextPulse { queue := [], arrivals := (p :: now) :: later } = (some p, { queue := now, arrivals := later })) ∧
  (∀ later : List (List Pulse), Source.nextPulse { queue := [], arrivals := [] :: later } = (none, { queue := [], arrivals := later })) ∧
  Source.nextPulse { queue := [], arrivals := [] } = (none, { queue := [], arrivals := [] })

/-- R221: RECV's loop, as its equation. It answers absent on an empty source; it returns the first packet that the decoder produces; else
it goes on with the next pulse, keeping the events met in order. The decoder step is the operation of the decoder's own protocol, TDEC or
CDEC (R220). That it always completes is the model's choice: what a source delivers is finite (log entry 9; R329 names the other run). -/
def Obligations.RecvFollowsItsLoop : Prop :=
  ∀ (s : State) (r : Nat) (x : Receiver), s.receivers[r]? = some x →
    (Instr.recv r).HasCode 0b10000#5 false ∧ (∃ t, exec (.recv r) s = .next t) ∧
    (∀ p, exec (match x.dec.proto with | .tag => .tdec (.single r) p | .crclp => .cdec (.single r) p) s =
      .next (s.stepped (.single r) (x.dec.step s.params p).dec (x.dec.step s.params p).packet (x.dec.step s.params p).events)) ∧
    (∀ src', x.src.nextPulse = (none, src') →
      exec (.recv r) s = .next (({ s with receivers := s.receivers.set r { x with src := src' } }).respond (.packet none) [])) ∧
    (∀ p src', x.src.nextPulse = (some p, src') →
      let y := x.dec.step s.params p
      let s' := { s with receivers := s.receivers.set r { src := src', dec := y.dec } }
      (∀ k, y.packet = some k → exec (.recv r) s = .next (s'.respond (.packet (some k)) y.events)) ∧
      (y.packet = none → ∀ t z, exec (.recv r) s' = .next t → t.response = some z →
        exec (.recv r) s = .next { t with response := some { z with events := y.events ++ z.events } }))

/-- R224: RECV ends exactly when the decoder returns a packet or the source answers absent: if it returns no packet, nothing that its source
held or gained during the call is left queued, and only this receiver has changed. -/
def Obligations.RecvDrainsItsSourceOrReturns : Prop :=
  ∀ (s t : State) (r : Nat), exec (.recv r) s = .next t →
    (∀ z, t.response = some z → z.result = .packet none → ∀ y, t.receivers[r]? = some y → y.src.queue = []) ∧
    (∀ d, d ≠ .single r → t.decoder? d = s.decoder? d ∧ t.source? d = s.source? d) ∧
    t.transmitters = s.transmitters ∧ t.sinks = s.sinks ∧ t.multis = s.multis ∧ t.params = s.params ∧ t.requests = s.requests

/-- RECV on a Tag frame in a source that gains nothing meanwhile (R221, corner case 2; R172): the byte comes back without bit 7, and the
pulses queued behind the frame stay queued. -/
def Obligations.RecvReturnsTheQueuedFrame : Prop :=
  ∀ (s : State) (r : Nat) (x : Receiver) (b : Byte) (behind : List Pulse), s.receivers[r]? = some x → x.dec.AtRest → x.dec.proto = .tag →
    x.dec.state = 0#8 → x.src = { queue := tagEncode b ++ behind, arrivals := [] } →
      exec (.recv r) s =
        .next (({ s with receivers := s.receivers.set r { src := { queue := behind, arrivals := [] }, dec := x.dec.completed 0 } }).respond
          (.packet (some [b &&& 0x7F#8])) [])

/-- R230: MRECV's loop, as its equation over rounds. In a round a sensor whose source answers absent is skipped, its decoder untouched, and
every other sensor's own decoder is fed the one pulse taken from its own source (R231). That it always completes is the model's choice:
what the sources deliver is finite (log entry 9; R329 names the other run). -/
def Obligations.MrecvFollowsItsRounds : Prop :=
  ∀ (s : State) (m : Nat) (u : Multi), s.multis[m]? = some u →
    (Instr.mrecv m).HasCode 0b10001#5 false ∧ (∃ t, exec (.mrecv m) s = .next t) ∧
    (∀ (x : Sensor) (src' : Source), x.src.nextPulse = (none, src') →
      x.pull s.params = { sensor := { x with src := src' }, got := false, packet := none, events := [] }) ∧
    (∀ (x : Sensor) (p : Pulse) (src' : Source), x.src.nextPulse = (some p, src') →
      let y := x.dec.step s.params p
      x.pull s.params = { sensor := { x with src := src', dec := y.dec }, got := true, packet := y.packet, events := y.events }) ∧
    (let qs := u.sensors.map (Sensor.pull s.params)
     let s' := { s with multis := s.multis.set m { sensors := qs.map Pull.sensor } }
     ((∀ q ∈ qs, q.packet = none) → (∀ q ∈ qs, q.got = false) → exec (.mrecv m) s = .next (s'.respond (.packet none) [])) ∧
     ((∀ q ∈ qs, q.packet = none) → (∃ q ∈ qs, q.got = true) → ∀ t z, exec (.mrecv m) s' = .next t → t.response = some z →
        exec (.mrecv m) s = .next { t with response := some { z with events := qs.flatMap Pull.events ++ z.events } }))

/-- R232 to R235: a completing round. The snapshot entry of a sensor is present exactly if the sensor completed, with the margin its decoder
recorded and the strength of that margin; every decoder keeps its own recorded margin and is otherwise reset; the packet returned
is that of the completed sensor with the lowest margin and, among equals, the lowest index. -/
def Obligations.CompletingRoundArbitrates : Prop :=
  ∀ (s : State) (m : Nat) (u : Multi), s.multis[m]? = some u → (∃ x ∈ u.sensors, (x.pull s.params).packet.isSome = true) →
    ∃ (t : State) (u' : Multi) (w : Nat) (xw : Sensor) (k : Packet) (mw : Nat),
      exec (.mrecv m) s = .next t ∧ t.multis = s.multis.set m u' ∧ u'.sensors.length = u.sensors.length ∧
      t.response = some { result := .packet (some k), events := u.sensors.flatMap fun x => (x.pull s.params).events } ∧
      u.sensors[w]? = some xw ∧ (xw.pull s.params).packet = some k ∧ (xw.pull s.params).sensor.dec.lasterr = some mw ∧
      (∀ i x, u.sensors[i]? = some x → ∃ y, u'.sensors[i]? = some y ∧ y.src = (x.pull s.params).sensor.src ∧
        y.dec = (x.pull s.params).sensor.dec.resetKeepingMargin ∧
        ((x.pull s.params).packet = none → y.snap = none) ∧
        ((x.pull s.params).packet.isSome = true → ∃ mi, (x.pull s.params).sensor.dec.lasterr = some mi ∧
          y.snap = some { margin := mi, strength := strengthOf x.dec.eth mi } ∧ mw ≤ mi ∧ (i < w → mw < mi)))

/-- "a sensor that never receives pulses never affects arbitration" (source §8 sixth bullet, R237): MRECV answers the same, and leaves the
other sensors the same, with such a sensor inserted anywhere among them; and that sensor stays silent. -/
def Obligations.SilentSensorNeverAffectsArbitration : Prop :=
  ∀ (s t : State) (m : Nat) (before after : List Sensor) (z : Sensor), s.multis[m]? = some { sensors := before ++ after } → z.silent →
    exec (.mrecv m) s = .next t →
      ∃ (t' : State) (before' after' : List Sensor) (z' : Sensor),
        exec (.mrecv m) { s with multis := s.multis.set m { sensors := before ++ z :: after } } = .next t' ∧ t'.response = t.response ∧
        before'.length = before.length ∧ t.multis[m]? = some { sensors := before' ++ after' } ∧
        t'.multis[m]? = some { sensors := before' ++ z' :: after' } ∧ z'.silent

/-- R35, R36: MRECV touches its own receiver only. -/
def Obligations.MrecvFrame : Prop :=
  ∀ (s t : State) (m : Nat), exec (.mrecv m) s = .next t →
    (∀ m', m' ≠ m → t.multis[m']? = s.multis[m']?) ∧ t.receivers = s.receivers ∧ t.transmitters = s.transmitters ∧ t.sinks = s.sinks ∧
      t.params = s.params ∧ t.requests = s.requests

/-- R240: QBEST returns the index of the lowest margin of the snapshot, the lowest index among equals; absent when no entry is present; it
writes nothing. -/
def Obligations.QbestIsTheLowestMargin : Prop :=
  ∀ (s : State) (m : Nat) (u : Multi), s.multis[m]? = some u →
    (Instr.qbest m).HasCode 0b10010#5 false ∧
    ((∀ x ∈ u.sensors, x.snap = none) → exec (.qbest m) s = .next (s.respond (.sensor none) [])) ∧
    (∀ w xw e, u.sensors[w]? = some xw → xw.snap = some e →
      (∀ i x f, u.sensors[i]? = some x → x.snap = some f → e.margin ≤ f.margin ∧ (i < w → e.margin < f.margin)) →
        exec (.qbest m) s = .next (s.respond (.sensor (some w)) []))

/-- R241: QRANK lists exactly the sensors with a present entry, each once, in ascending margin and, among equals, ascending index; its first
element is QBEST's; it writes nothing. -/
def Obligations.QrankIsSortedByMargin : Prop :=
  ∀ (s : State) (m : Nat) (u : Multi), s.multis[m]? = some u →
    (Instr.qrank m).HasCode 0b10011#5 false ∧
    ∃ is : List Nat, exec (.qrank m) s = .next (s.respond (.ranking is) []) ∧
      (∀ i, i ∈ is ↔ ∃ x e, u.sensors[i]? = some x ∧ x.snap = some e) ∧
      is.Pairwise (fun i j => ∀ x y e f, u.sensors[i]? = some x → x.snap = some e → u.sensors[j]? = some y → y.snap = some f →
        e.margin < f.margin ∨ (e.margin = f.margin ∧ i < j)) ∧
      exec (.qbest m) s = .next (s.respond (.sensor is.head?) [])

/-- R242, R243: QWMAR and QWSTR return the margin and the strength of the entry that QBEST names, absent when QBEST is; they write
nothing. -/
def Obligations.QwmarAndQwstrReadTheBestEntry : Prop :=
  ∀ (s : State) (m : Nat) (u : Multi), s.multis[m]? = some u →
    (Instr.qwmar m).HasCode 0b10100#5 false ∧ (Instr.qwstr m).HasCode 0b10101#5 false ∧
    ∃ w : Option Nat, exec (.qbest m) s = .next (s.respond (.sensor w) []) ∧
      (w = none → exec (.qwmar m) s = .next (s.respond (.margin none) []) ∧ exec (.qwstr m) s = .next (s.respond (.strength none) [])) ∧
      (∀ i, w = some i → ∃ x e, u.sensors[i]? = some x ∧ x.snap = some e ∧
        exec (.qwmar m) s = .next (s.respond (.margin (some e.margin)) []) ∧
        exec (.qwstr m) s = .next (s.respond (.strength (some e.strength)) []))

/-- What the spec derives in R240: after every MRECV that returns a packet, QBEST names the sensor whose packet it was. That sensor is the one
that returned it in the first round in which any sensor completes, after `n` rounds in which none did. -/
def Obligations.QbestNamesTheReturnedSensor : Prop :=
  ∀ (s t : State) (m : Nat) (u : Multi) (z : Response) (k : Packet), s.multis[m]? = some u → exec (.mrecv m) s = .next t →
    t.response = some z → z.result = .packet (some k) →
      ∃ (n w : Nat) (x : Sensor), exec (.qbest m) t = .next (t.respond (.sensor (some w)) []) ∧
        ((roundOf s.params)^[n] u.sensors)[w]? = some x ∧ (x.pull s.params).packet = some k ∧
        ∀ j < n, ∀ y ∈ (roundOf s.params)^[j] u.sensors, (y.pull s.params).packet = none

/-! ### The transmitter -/

/-- R261, R262: SEND on a TAG transmitter makes exactly one call, to the override if there is one and else to the default sink, with the
17 durations of TENC; a success is answered, a failure is raised as SinkFailure and not retried; no other sink and nothing else
changes. The sink's answer is an input (U10): the listed one, or a free one. -/
def Obligations.SendMakesOneSinkCall : Prop :=
  ∀ (s : State) (t : Nat) (x : Transmitter) (b : Byte) (override : Option Nat) (snk : Sink),
    s.transmitters[t]? = some x → x.proto = .tag → s.sinks[override.getD x.sink]? = some snk →
    (Instr.send t (.byte b) override).HasCode 0b11000#5 false ∧
    (let snk' : Sink := { handed := snk.handed ++ [tagEncode b], answers := snk.answers.tail }
     let s' := { s with sinks := s.sinks.set (override.getD x.sink) snk' }
     (∃ a : SinkAnswer, exec (.send t (.byte b) override) s =
        .next (if a = .success then s'.respond .success [] else s'.respond (.raised .sinkFailure) [])) ∧
     (∀ later, snk.answers = .success :: later → exec (.send t (.byte b) override) s = .next (s'.respond .success [])) ∧
     (∀ later, snk.answers = .failure :: later → exec (.send t (.byte b) override) s = .next (s'.respond (.raised .sinkFailure) [])))

/-- R260: SEND on a CRCLP transmitter raises Unencodable whatever the data, changing nothing and calling no sink. -/
def Obligations.SendOnCrclpIsUnencodable : Prop :=
  ∀ (s : State) (t : Nat) (x : Transmitter) (data : SendData) (override : Option Nat), s.transmitters[t]? = some x → x.proto = .crclp →
    exec (.send t data override) s = .next (s.respond (.raised .unencodable) [])
end

