-- ==== Sys2Proof/Laws/State.lean ====
section
/-! SUPPORT. One lemma per field per update of the state and of a decoder record, so that no later proof unfolds an update, and what
reading a decoder gives after one was written. -/

namespace Sys2Proof.Machine

/-! ### How the port carries a result (R8, `STRENGTH_FMT`) -/

@[simp] theorem Result.strengthWord_strength (fmt : Nat) (r : Option Strength) :
    (Result.strength r).strengthWord fmt = r.map (Config.strengthAtPort fmt) := rfl
@[simp] theorem Result.strengthWord_unit (fmt : Nat) : (Result.unit).strengthWord fmt = none := rfl
@[simp] theorem Result.strengthWord_flag (fmt : Nat) (b : Bool) : (Result.flag b).strengthWord fmt = none := rfl
@[simp] theorem Result.strengthWord_margin (fmt : Nat) (m : Option Nat) : (Result.margin m).strengthWord fmt = none := rfl
@[simp] theorem Result.strengthWord_packet (fmt : Nat) (k : Option Packet) : (Result.packet k).strengthWord fmt = none := rfl
@[simp] theorem Result.strengthWord_pulses (fmt : Nat) (seq : List Pulse) : (Result.pulses seq).strengthWord fmt = none := rfl
@[simp] theorem Result.strengthWord_byte (fmt : Nat) (b : Byte) : (Result.byte b).strengthWord fmt = none := rfl
@[simp] theorem Result.strengthWord_tag (fmt : Nat) (t : TagData) : (Result.tag t).strengthWord fmt = none := rfl
@[simp] theorem Result.strengthWord_sensor (fmt : Nat) (i : Option Nat) : (Result.sensor i).strengthWord fmt = none := rfl
@[simp] theorem Result.strengthWord_ranking (fmt : Nat) (is : List Nat) : (Result.ranking is).strengthWord fmt = none := rfl
@[simp] theorem Result.strengthWord_success (fmt : Nat) : (Result.success).strengthWord fmt = none := rfl
@[simp] theorem Result.strengthWord_raised (fmt : Nat) (e : Raised) : (Result.raised e).strengthWord fmt = none := rfl

/-! ### The answer to the host -/

@[simp] theorem State.respond_params (s : State) (r : Result) (ev : List Corrupt) : (s.respond r ev).params = s.params := rfl
@[simp] theorem State.respond_receivers (s : State) (r : Result) (ev : List Corrupt) : (s.respond r ev).receivers = s.receivers := rfl
@[simp] theorem State.respond_multis (s : State) (r : Result) (ev : List Corrupt) : (s.respond r ev).multis = s.multis := rfl
@[simp] theorem State.respond_transmitters (s : State) (r : Result) (ev : List Corrupt) :
    (s.respond r ev).transmitters = s.transmitters := rfl
@[simp] theorem State.respond_sinks (s : State) (r : Result) (ev : List Corrupt) : (s.respond r ev).sinks = s.sinks := rfl
@[simp] theorem State.respond_requests (s : State) (r : Result) (ev : List Corrupt) : (s.respond r ev).requests = s.requests := rfl
@[simp] theorem State.respond_response (s : State) (r : Result) (ev : List Corrupt) :
    (s.respond r ev).response = some { result := r, events := ev, strengthWord := r.strengthWord s.params.strengthFmt } := rfl
@[simp] theorem State.respond_decoder? (s : State) (r : Result) (ev : List Corrupt) (d : DecRef) :
    (s.respond r ev).decoder? d = s.decoder? d := by cases d <;> rfl
@[simp] theorem State.respond_source? (s : State) (r : Result) (ev : List Corrupt) (d : DecRef) :
    (s.respond r ev).source? d = s.source? d := by cases d <;> rfl

/-! ### The write of a decoder -/

@[simp] theorem State.setDecoder_params (s : State) (d : DecRef) (x : Decoder) : (s.setDecoder d x).params = s.params := by
  cases d <;> rfl
@[simp] theorem State.setDecoder_transmitters (s : State) (d : DecRef) (x : Decoder) :
    (s.setDecoder d x).transmitters = s.transmitters := by cases d <;> rfl
@[simp] theorem State.setDecoder_sinks (s : State) (d : DecRef) (x : Decoder) : (s.setDecoder d x).sinks = s.sinks := by
  cases d <;> rfl
@[simp] theorem State.setDecoder_requests (s : State) (d : DecRef) (x : Decoder) : (s.setDecoder d x).requests = s.requests := by
  cases d <;> rfl
@[simp] theorem State.setDecoder_response (s : State) (d : DecRef) (x : Decoder) : (s.setDecoder d x).response = s.response := by
  cases d <;> rfl

/-- The decoder that was written reads as written. -/
theorem State.decoder?_setDecoder_self (s : State) (d : DecRef) (x y : Decoder) (h : s.decoder? d = some x) :
    (s.setDecoder d y).decoder? d = some y := by
  cases d with
  | single r =>
    simp only [State.decoder?, Option.map_eq_some_iff] at h
    obtain ⟨v, hv, -⟩ := h
    simp [State.decoder?, State.setDecoder, hv]
  | sensor m i =>
    simp only [State.decoder?, Option.bind_eq_some_iff, Option.map_eq_some_iff] at h
    obtain ⟨u, hu, v, hv, -⟩ := h
    simp [State.decoder?, State.setDecoder, hu, hv]

/-- Every other decoder reads as before. -/
theorem State.decoder?_setDecoder_ne (s : State) (d d' : DecRef) (x : Decoder) (h : d' ≠ d) :
    (s.setDecoder d x).decoder? d' = s.decoder? d' := by
  cases d with
  | single r =>
    cases d' with
    | single r' =>
      have hr : r ≠ r' := fun e => h (by rw [e])
      simp [State.decoder?, State.setDecoder, hr]
    | sensor m i => rfl
  | sensor m i =>
    cases d' with
    | single r' => rfl
    | sensor m' i' =>
      by_cases hm : m = m'
      · subst hm
        have hi : i ≠ i' := fun e => h (by rw [e])
        cases hu : s.multis[m]? <;>
          simp [State.decoder?, State.setDecoder, hu, hi]
      · simp [State.decoder?, State.setDecoder, hm]

/-- No source is touched by the write of a decoder. -/
@[simp] theorem State.source?_setDecoder (s : State) (d d' : DecRef) (x : Decoder) :
    (s.setDecoder d x).source? d' = s.source? d' := by
  cases d with
  | single r =>
    cases d' with
    | single r' =>
      by_cases hr : r = r' <;> cases hu : s.receivers[r']? <;>
        simp [State.source?, State.setDecoder, hr, hu]
    | sensor m i => rfl
  | sensor m i =>
    cases d' with
    | single r' => rfl
    | sensor m' i' =>
      by_cases hm : m = m'
      · subst hm
        cases hu : s.multis[m]? with
        | none => simp [State.source?, State.setDecoder, hu]
        | some u =>
          by_cases hi : i = i' <;> cases hv : u.sensors[i']? <;>
            simp [State.source?, State.setDecoder, hu, hi, hv]
      · simp [State.source?, State.setDecoder, hm]

/-- Writing back the decoder that is there changes nothing. -/
theorem State.setDecoder_self (s : State) (d : DecRef) (x : Decoder) (h : s.decoder? d = some x) : s.setDecoder d x = s := by
  cases d with
  | single r =>
    simp only [State.decoder?, Option.map_eq_some_iff] at h
    obtain ⟨v, hv, rfl⟩ := h
    have : s.receivers.modify r (fun w => { w with dec := v.dec }) = s.receivers := by
      apply List.ext_getElem?
      intro k
      by_cases hk : r = k
      · subst hk; simp [hv]
      · simp [hk]
    simp [State.setDecoder, this]
  | sensor m i =>
    simp only [State.decoder?, Option.bind_eq_some_iff, Option.map_eq_some_iff] at h
    obtain ⟨u, hu, v, hv, rfl⟩ := h
    have inner : u.sensors.modify i (fun w => { w with dec := v.dec }) = u.sensors := by
      apply List.ext_getElem?
      intro k
      by_cases hk : i = k
      · subst hk; simp [hv]
      · simp [hk]
    have : s.multis.modify m (fun w => { w with sensors := w.sensors.modify i fun z => { z with dec := v.dec } }) = s.multis := by
      apply List.ext_getElem?
      intro k
      by_cases hk : m = k
      · subst hk; simp [hu, inner]
      · simp [hk]
    simp [State.setDecoder, this]

/-! ### The updates of a decoder record -/

@[simp] theorem Decoder.setState_proto (d : Decoder) (n : BitVec 8) : (d.setState n).proto = d.proto := rfl
@[simp] theorem Decoder.setState_eth (d : Decoder) (n : BitVec 8) : (d.setState n).eth = d.eth := rfl
@[simp] theorem Decoder.setState_state (d : Decoder) (n : BitVec 8) : (d.setState n).state = n := rfl
@[simp] theorem Decoder.setState_rbytes (d : Decoder) (n : BitVec 8) : (d.setState n).rbytes = d.rbytes := rfl
@[simp] theorem Decoder.setState_bitidx (d : Decoder) (n : BitVec 8) : (d.setState n).bitidx = d.bitidx := rfl
@[simp] theorem Decoder.setState_curbyte (d : Decoder) (n : BitVec 8) : (d.setState n).curbyte = d.curbyte := rfl
@[simp] theorem Decoder.setState_maxerr (d : Decoder) (n : BitVec 8) : (d.setState n).maxerr = d.maxerr := rfl
@[simp] theorem Decoder.setState_lasterr (d : Decoder) (n : BitVec 8) : (d.setState n).lasterr = d.lasterr := rfl

@[simp] theorem Decoder.drst_proto (d : Decoder) (m : Option Nat) : (d.drst m).proto = d.proto := rfl
@[simp] theorem Decoder.drst_eth (d : Decoder) (m : Option Nat) : (d.drst m).eth = d.eth := rfl
@[simp] theorem Decoder.drst_state (d : Decoder) (m : Option Nat) : (d.drst m).state = 0#8 := rfl
@[simp] theorem Decoder.drst_rbytes (d : Decoder) (m : Option Nat) : (d.drst m).rbytes = [] := rfl
@[simp] theorem Decoder.drst_bitidx (d : Decoder) (m : Option Nat) : (d.drst m).bitidx = 7#3 := rfl
@[simp] theorem Decoder.drst_curbyte (d : Decoder) (m : Option Nat) : (d.drst m).curbyte = 0x00#8 := rfl
@[simp] theorem Decoder.drst_maxerr (d : Decoder) (m : Option Nat) : (d.drst m).maxerr = 0 := rfl
@[simp] theorem Decoder.drst_lasterr (d : Decoder) (m : Option Nat) : (d.drst m).lasterr = m := rfl

@[simp] theorem Decoder.wbit_proto (d : Decoder) (b : BitVec 1) : (d.wbit b).proto = d.proto := by
  simp only [Decoder.wbit]; split <;> rfl
@[simp] theorem Decoder.wbit_eth (d : Decoder) (b : BitVec 1) : (d.wbit b).eth = d.eth := by
  simp only [Decoder.wbit]; split <;> rfl
@[simp] theorem Decoder.wbit_state (d : Decoder) (b : BitVec 1) : (d.wbit b).state = d.state := by
  simp only [Decoder.wbit]; split <;> rfl
@[simp] theorem Decoder.wbit_maxerr (d : Decoder) (b : BitVec 1) : (d.wbit b).maxerr = d.maxerr := by
  simp only [Decoder.wbit]; split <;> rfl
@[simp] theorem Decoder.wbit_lasterr (d : Decoder) (b : BitVec 1) : (d.wbit b).lasterr = d.lasterr := by
  simp only [Decoder.wbit]; split <;> rfl

@[simp] theorem Decoder.matchPulse_proto (d : Decoder) (o e : Pulse) : (d.matchPulse o e).1.proto = d.proto := by
  simp only [Decoder.matchPulse]; split <;> rfl
@[simp] theorem Decoder.matchPulse_eth (d : Decoder) (o e : Pulse) : (d.matchPulse o e).1.eth = d.eth := by
  simp only [Decoder.matchPulse]; split <;> rfl
@[simp] theorem Decoder.matchPulse_state (d : Decoder) (o e : Pulse) : (d.matchPulse o e).1.state = d.state := by
  simp only [Decoder.matchPulse]; split <;> rfl
@[simp] theorem Decoder.matchPulse_rbytes (d : Decoder) (o e : Pulse) : (d.matchPulse o e).1.rbytes = d.rbytes := by
  simp only [Decoder.matchPulse]; split <;> rfl
@[simp] theorem Decoder.matchPulse_bitidx (d : Decoder) (o e : Pulse) : (d.matchPulse o e).1.bitidx = d.bitidx := by
  simp only [Decoder.matchPulse]; split <;> rfl
@[simp] theorem Decoder.matchPulse_curbyte (d : Decoder) (o e : Pulse) : (d.matchPulse o e).1.curbyte = d.curbyte := by
  simp only [Decoder.matchPulse]; split <;> rfl
@[simp] theorem Decoder.matchPulse_lasterr (d : Decoder) (o e : Pulse) : (d.matchPulse o e).1.lasterr = d.lasterr := by
  simp only [Decoder.matchPulse]; split <;> rfl

end Sys2Proof.Machine
end

