-- ==== Sys2Proof/Laws/Engine.lean ====
section
/-! SUPPORT. What each operation of the decoder engine can do, said once: MATCH, WBIT, the abort, the completion, and the shapes that
meanings share (`onDecoder`, `runStep`, `runRow`, `onSnapshot`). -/

namespace Sys2Proof.Machine

/-- The model's absolute difference is the deviation of the statements. -/
theorem absDiff_eq_deviation (a b : Nat) : absDiff a b = deviation a b := by
  unfold absDiff deviation
  split <;> omega

theorem matchResult_eq (eth : Nat) (o e : Pulse) : matchResult eth o e = decide (deviation o e < eth) := by
  rw [matchResult, absDiff_eq_deviation]

/-- A pulse inside the window: the deviation is taken in. -/
theorem Decoder.matchPulse_hit (x : Decoder) (o e : Pulse) (h : deviation o e < x.eth) :
    x.matchPulse o e = ({ x with maxerr := max x.maxerr (deviation o e) }, true) := by
  simp [Decoder.matchPulse, matchResult_eq, absDiff_eq_deviation, h]

/-- A pulse outside the window: nothing is written. -/
theorem Decoder.matchPulse_miss (x : Decoder) (o e : Pulse) (h : ¬ deviation o e < x.eth) : x.matchPulse o e = (x, false) := by
  simp [Decoder.matchPulse, matchResult_eq, h]

/-- Everything MATCH can do. -/
theorem Decoder.matchPulse_cases (x : Decoder) (o e : Pulse) :
    (deviation o e < x.eth ∧ x.matchPulse o e = ({ x with maxerr := max x.maxerr (deviation o e) }, true)) ∨
      (¬ deviation o e < x.eth ∧ x.matchPulse o e = (x, false)) := by
  by_cases h : deviation o e < x.eth
  · exact .inl ⟨h, x.matchPulse_hit o e h⟩
  · exact .inr ⟨h, x.matchPulse_miss o e h⟩

/-- WBIT on the last bit of a byte. -/
theorem Decoder.wbit_last (x : Decoder) (b : BitVec 1) (h : x.bitidx = 0#3) :
    x.wbit b = { x with rbytes := x.rbytes ++ [x.curbyte ||| (b.setWidth 8 <<< x.bitidx.toNat)], curbyte := 0x00#8, bitidx := 7#3 } := by
  simp [Decoder.wbit, Decoder.append, h]

/-- WBIT on any bit but the last of a byte. -/
theorem Decoder.wbit_inner (x : Decoder) (b : BitVec 1) (h : x.bitidx ≠ 0#3) :
    x.wbit b = { x with curbyte := x.curbyte ||| (b.setWidth 8 <<< x.bitidx.toNat), bitidx := x.bitidx - 1#3 } := by
  simp [Decoder.wbit, h]

@[simp] theorem Decoder.abort_eq (x : Decoder) : x.abort = { dec := x.aborted, packet := none, event := none } := rfl

@[simp] theorem Decoder.abortCorrupt_eq (x : Decoder) (r : Corrupt) :
    x.abortCorrupt r = { dec := x.aborted, packet := none, event := some r } := rfl

@[simp] theorem Decoder.complete_eq (x : Decoder) (k : Packet) :
    x.complete k = { dec := x.completed x.maxerr, packet := some k, event := none } := rfl

@[simp] theorem Decoder.goOn_eq (x : Decoder) : x.goOn = { dec := x, packet := none, event := none } := rfl

/-- An operation on a decoder gives a next state only if the decoder exists, and then it is what the continuation gives. -/
theorem onDecoder_next {d : DecRef} {s t : State} {k : Decoder → Answer} (h : onDecoder d s k = .next t) :
    ∃ x, s.decoder? d = some x ∧ k x = .next t := by
  unfold onDecoder at h
  split at h
  · exact ⟨_, by assumption, h⟩
  · cases h

theorem onDecoder_some {d : DecRef} {s : State} {x : Decoder} (k : Decoder → Answer) (h : s.decoder? d = some x) :
    onDecoder d s k = k x := by simp [onDecoder, h]

/-- A protocol step on a decoder of its protocol. -/
theorem runStep_some {proto : Protocol} {d : DecRef} {s : State} {x : Decoder} (f : Decoder → StepResult) (h : s.decoder? d = some x)
    (hp : x.proto = proto) : runStep proto d s f = .next (s.stepped d (f x).dec (f x).packet (f x).events) := by
  simp [runStep, onDecoder, h, hp, finishStep, State.stepped]

/-- A row on a decoder whose STATE selects it. -/
theorem runRow_some {proto : Protocol} {row : BitVec 8} {d : DecRef} {s : State} {x : Decoder} (f : Decoder → StepResult)
    (h : s.decoder? d = some x) (hp : x.proto = proto) (hr : x.state = row) :
    runRow proto row d s f = .next (s.stepped d (f x).dec (f x).packet (f x).events) := by
  simp [runRow, onDecoder, h, hp, hr, finishStep, State.stepped]

/-- Everything a protocol step can do when it gives a next state. -/
theorem runStep_next {proto : Protocol} {d : DecRef} {s t : State} {f : Decoder → StepResult} (h : runStep proto d s f = .next t) :
    ∃ x, s.decoder? d = some x ∧ x.proto = proto ∧ t = s.stepped d (f x).dec (f x).packet (f x).events := by
  obtain ⟨x, hx, hk⟩ := onDecoder_next h
  split at hk
  · next hp =>
    simp only [finishStep, Host.Outcome.next.injEq] at hk
    exact ⟨x, hx, hp, hk.symm⟩
  · cases hk

/-- Everything a row can do when it gives a next state. -/
theorem runRow_next {proto : Protocol} {row : BitVec 8} {d : DecRef} {s t : State} {f : Decoder → StepResult}
    (h : runRow proto row d s f = .next t) :
    ∃ x, s.decoder? d = some x ∧ x.proto = proto ∧ x.state = row ∧ t = s.stepped d (f x).dec (f x).packet (f x).events := by
  obtain ⟨x, hx, hk⟩ := onDecoder_next h
  split at hk
  · next hp =>
    split at hk
    · next hr =>
      simp only [finishStep, Host.Outcome.next.injEq] at hk
      exact ⟨x, hx, hp, hr, hk.symm⟩
    · cases hk
  · cases hk

theorem onSnapshot_some {m : Nat} {s : State} {u : Multi} (f : List (Option SnapEntry) → Result) (h : s.multis[m]? = some u) :
    onSnapshot m s f = .next (s.respond (f u.snapshot) []) := by simp [onSnapshot, h]

/-- Everything a query can do when it gives a next state: it answers its caller. -/
theorem onSnapshot_next {m : Nat} {s t : State} {f : List (Option SnapEntry) → Result} (h : onSnapshot m s f = .next t) :
    ∃ u, s.multis[m]? = some u ∧ t = s.respond (f u.snapshot) [] := by
  unfold onSnapshot at h
  split at h
  · simp only [Host.Outcome.next.injEq] at h
    exact ⟨_, by assumption, h.symm⟩
  · cases h

/-! ### The state after a protocol step -/

@[simp] theorem State.stepped_params (s : State) (d : DecRef) (x : Decoder) (k : Option Packet) (ev : List Corrupt) :
    (s.stepped d x k ev).params = s.params := by simp [State.stepped]
@[simp] theorem State.stepped_transmitters (s : State) (d : DecRef) (x : Decoder) (k : Option Packet) (ev : List Corrupt) :
    (s.stepped d x k ev).transmitters = s.transmitters := by simp [State.stepped]
@[simp] theorem State.stepped_sinks (s : State) (d : DecRef) (x : Decoder) (k : Option Packet) (ev : List Corrupt) :
    (s.stepped d x k ev).sinks = s.sinks := by simp [State.stepped]
@[simp] theorem State.stepped_requests (s : State) (d : DecRef) (x : Decoder) (k : Option Packet) (ev : List Corrupt) :
    (s.stepped d x k ev).requests = s.requests := by simp [State.stepped]
@[simp] theorem State.stepped_response (s : State) (d : DecRef) (x : Decoder) (k : Option Packet) (ev : List Corrupt) :
    (s.stepped d x k ev).response = some { result := .packet k, events := ev } := rfl

/-- The write of a decoder leaves every snapshot as it was. -/
@[simp] theorem State.setDecoder_snapshots (s : State) (d : DecRef) (x : Decoder) : (s.setDecoder d x).snapshots = s.snapshots := by
  cases d with
  | single r => rfl
  | sensor m i =>
    apply List.ext_getElem?
    intro k
    by_cases hk : m = k
    · subst hk
      cases hu : s.multis[m]? with
      | none => simp [State.snapshots, State.setDecoder, hu]
      | some u =>
        simp only [State.snapshots, State.setDecoder, List.getElem?_map, List.getElem?_modify, hu, Option.map_eq_map, Option.map_some, if_pos,
          Option.some.injEq]
        apply List.ext_getElem?
        intro j
        by_cases hj : i = j
        · subst hj; cases hv : u.sensors[i]? <;> simp [Multi.snapshot, hv]
        · simp [Multi.snapshot, hj]
    · simp [State.snapshots, State.setDecoder, hk]

/-- The write of a decoder record with the configuration it had leaves the configuration as it was. -/
theorem State.setDecoder_configuration (s : State) (d : DecRef) (x y : Decoder) (h : s.decoder? d = some x)
    (hc : y.configuration = x.configuration) : (s.setDecoder d y).configuration = s.configuration := by
  cases d with
  | single r =>
    simp only [State.decoder?, Option.map_eq_some_iff] at h
    obtain ⟨v, hv, rfl⟩ := h
    simp only [State.configuration, State.setDecoder, Configuration.mk.injEq, true_and, and_true]
    apply List.ext_getElem?
    intro k
    by_cases hk : r = k
    · subst hk; simp [hv, hc]
    · simp [hk]
  | sensor m i =>
    simp only [State.decoder?, Option.bind_eq_some_iff, Option.map_eq_some_iff] at h
    obtain ⟨u, hu, v, hv, rfl⟩ := h
    simp only [State.configuration, State.setDecoder, Configuration.mk.injEq, true_and, and_true]
    apply List.ext_getElem?
    intro k
    by_cases hk : m = k
    · subst hk
      simp only [List.getElem?_map, List.getElem?_modify, hu, Option.map_eq_map, Option.map_some, if_pos, Option.some.injEq]
      apply List.ext_getElem?
      intro j
      by_cases hj : i = j
      · subst hj; simp [hv, hc]
      · simp [hj]
    · simp [hk]

end Sys2Proof.Machine
end

