-- ==== Sys2Proof/Laws/Protocol.lean ====
section
/-! SUPPORT. What each protocol step can do, said once (Tag and CRCLP), and that no step touches a decoder's configuration. -/

namespace Sys2Proof.Machine

@[simp] theorem Decoder.aborted_configuration (x : Decoder) : x.aborted.configuration = x.configuration := rfl
@[simp] theorem Decoder.completed_configuration (x : Decoder) (m : Nat) : (x.completed m).configuration = x.configuration := rfl
@[simp] theorem Decoder.setState_configuration (x : Decoder) (n : BitVec 8) : (x.setState n).configuration = x.configuration := rfl
@[simp] theorem Decoder.drst_configuration (x : Decoder) (m : Option Nat) : (x.drst m).configuration = x.configuration := rfl
@[simp] theorem Decoder.wbit_configuration (x : Decoder) (b : BitVec 1) : (x.wbit b).configuration = x.configuration := by
  simp [Decoder.configuration]
@[simp] theorem Decoder.matchPulse_configuration (x : Decoder) (o e : Pulse) : (x.matchPulse o e).1.configuration = x.configuration := by
  simp [Decoder.configuration]

/-! ### Tag -/

/-- Everything the completion of a Tag packet can do (R165, R168). -/
theorem Decoder.tagComplete_cases (x : Decoder) :
    ((x.wbit 0#1).rbytes = [] ∧ x.tagComplete = { dec := (x.wbit 0#1).aborted, packet := none, event := none }) ∨
      (∃ b bs, (x.wbit 0#1).rbytes = b :: bs ∧
        x.tagComplete = { dec := (x.wbit 0#1).completed x.maxerr, packet := some [b >>> 1], event := none }) := by
  unfold Decoder.tagComplete
  cases h : (x.wbit 0#1).rbytes with
  | nil => exact .inl ⟨rfl, by simp [h]⟩
  | cons b bs => exact .inr ⟨b, bs, rfl, by simp [h]⟩

/-- The end of a Tag step outside state 17. -/
theorem Decoder.tagArrive_inner (x : Decoder) (h : x.state ≠ 17#8) : x.tagArrive = { dec := x, packet := none, event := none } := by
  simp [Decoder.tagArrive, h]

/-- The end of a Tag step in state 17. -/
theorem Decoder.tagArrive_last (x : Decoder) (h : x.state = 17#8) : x.tagArrive = x.tagComplete := by simp [Decoder.tagArrive, h]

/-- A Tag test that matches. -/
theorem Decoder.tagTest_hit (x : Decoder) (p e : Pulse) (n : BitVec 8) (h : deviation p e < x.eth) :
    x.tagTest p e n = (x.advanced p e n).tagArrive := by
  simp only [Decoder.tagTest, x.matchPulse_hit p e h]; rfl

/-- A Tag test that fails. -/
theorem Decoder.tagTest_miss (x : Decoder) (p e : Pulse) (n : BitVec 8) (h : ¬ deviation p e < x.eth) :
    x.tagTest p e n = { dec := x.aborted, packet := none, event := none } := by
  simp only [Decoder.tagTest, x.matchPulse_miss p e h]; rfl

/-- The write of STATE and the writer of bits do not meet. -/
theorem Decoder.setState_wbit (x : Decoder) (b : BitVec 1) (n : BitVec 8) : (x.wbit b).setState n = (x.setState n).wbit b := by
  by_cases h : x.bitidx = 0#3 <;> simp [Decoder.wbit, Decoder.setState, Decoder.append, h]

/-- A Tag data space of bit 1. -/
theorem Decoder.tagSpaceTest_one (x : Decoder) (p : Pulse) (n : BitVec 8) (h : deviation p 2000 < x.eth) :
    x.tagSpaceTest p n = ((x.advanced p 2000 n).wbit 1#1).tagArrive := by
  simp only [Decoder.tagSpaceTest, Config.tagSpace1, x.matchPulse_hit p 2000 h, Decoder.setState_wbit]; rfl

/-- A Tag data space of bit 0. -/
theorem Decoder.tagSpaceTest_zero (x : Decoder) (p : Pulse) (n : BitVec 8) (h1 : ¬ deviation p 2000 < x.eth)
    (h0 : deviation p 1000 < x.eth) : x.tagSpaceTest p n = ((x.advanced p 1000 n).wbit 0#1).tagArrive := by
  simp only [Decoder.tagSpaceTest, Config.tagSpace1, Config.tagSpace0, x.matchPulse_miss p 2000 h1, x.matchPulse_hit p 1000 h0,
    Decoder.setState_wbit]; rfl

/-- A Tag data space that is neither. -/
theorem Decoder.tagSpaceTest_miss (x : Decoder) (p : Pulse) (n : BitVec 8) (h1 : ¬ deviation p 2000 < x.eth)
    (h0 : ¬ deviation p 1000 < x.eth) : x.tagSpaceTest p n = { dec := x.aborted, packet := none, event := none } := by
  simp only [Decoder.tagSpaceTest, Config.tagSpace1, Config.tagSpace0, x.matchPulse_miss p 2000 h1, x.matchPulse_miss p 1000 h0]; rfl

theorem Decoder.tagComplete_configuration (x : Decoder) : x.tagComplete.dec.configuration = x.configuration := by
  obtain ⟨-, h⟩ | ⟨b, bs, -, h⟩ := x.tagComplete_cases <;> simp [h]

theorem Decoder.tagArrive_configuration (x : Decoder) : x.tagArrive.dec.configuration = x.configuration := by
  by_cases h : x.state = 17#8
  · rw [x.tagArrive_last h, x.tagComplete_configuration]
  · simp [x.tagArrive_inner h]

theorem Decoder.tagTest_configuration (x : Decoder) (p e : Pulse) (n : BitVec 8) :
    (x.tagTest p e n).dec.configuration = x.configuration := by
  by_cases h : deviation p e < x.eth
  · rw [x.tagTest_hit p e n h, Decoder.tagArrive_configuration]; rfl
  · simp [x.tagTest_miss p e n h]

theorem Decoder.tagSpaceTest_configuration (x : Decoder) (p : Pulse) (n : BitVec 8) :
    (x.tagSpaceTest p n).dec.configuration = x.configuration := by
  by_cases h1 : deviation p 2000 < x.eth
  · rw [x.tagSpaceTest_one p n h1, Decoder.tagArrive_configuration, Decoder.wbit_configuration]; rfl
  · by_cases h0 : deviation p 1000 < x.eth
    · rw [x.tagSpaceTest_zero p n h1 h0, Decoder.tagArrive_configuration, Decoder.wbit_configuration]; rfl
    · simp [x.tagSpaceTest_miss p n h1 h0]

/-- TDEC's step never touches the configuration (R20). -/
theorem Decoder.tdec_configuration (x : Decoder) (p : Pulse) : (x.tdec p).dec.configuration = x.configuration := by
  simp only [Decoder.tdec]
  split
  · exact x.tagTest_configuration _ _ _
  · split
    · split
      · exact x.tagTest_configuration _ _ _
      · exact x.tagSpaceTest_configuration _ _
    · split
      · exact x.tagComplete_configuration
      · simp

/-! ### CRCLP -/

/-- Everything CDEC can do in state 0 (R193). -/
theorem Decoder.cdecSeek_cases (x : Decoder) (p : Pulse) :
    (deviation p 4000 < x.eth ∧ x.cdecSeek p = { dec := x.advanced p 4000 1#8, packet := none, event := none }) ∨
      (¬ deviation p 4000 < x.eth ∧ x.cdecSeek p = { dec := x, packet := none, event := none }) := by
  obtain ⟨h, e⟩ | ⟨h, e⟩ := x.matchPulse_cases p 4000
  · exact .inl ⟨h, by simp only [Decoder.cdecSeek, Config.crcHeaderMark, e]; rfl⟩
  · exact .inr ⟨h, by simp only [Decoder.cdecSeek, Config.crcHeaderMark, e]; rfl⟩

/-- Everything CDEC can do in state 1 (R194). -/
theorem Decoder.cdecHeader_cases (x : Decoder) (p : Pulse) :
    (deviation p 3000 < x.eth ∧ x.cdecHeader p = { dec := x.advanced p 3000 2#8, packet := none, event := none }) ∨
      (¬ deviation p 3000 < x.eth ∧ x.cdecHeader p = { dec := x.aborted, packet := none, event := none }) := by
  obtain ⟨h, e⟩ | ⟨h, e⟩ := x.matchPulse_cases p 3000
  · exact .inl ⟨h, by simp only [Decoder.cdecHeader, Config.crcHeaderSpace, e]; rfl⟩
  · exact .inr ⟨h, by simp only [Decoder.cdecHeader, Config.crcHeaderSpace, e]; rfl⟩

/-- Everything the lead-out can do (R196). -/
theorem Decoder.cdecLeadOut_cases (c : Params) (x : Decoder) :
    (x.rbytes.length < 2 ∧ x.cdecLeadOut c = { dec := x.aborted, packet := none, event := some .short }) ∨
      (∃ payload rx, payload ≠ [] ∧ x.rbytes = payload ++ [rx] ∧ crc8 c payload = rx ∧
        x.cdecLeadOut c = { dec := x.completed x.maxerr, packet := some payload, event := none }) ∨
      (∃ payload rx, payload ≠ [] ∧ x.rbytes = payload ++ [rx] ∧ crc8 c payload ≠ rx ∧
        x.cdecLeadOut c = { dec := x.aborted, packet := none, event := some .crc }) := by
  by_cases h : x.rbytes.length < 2
  · exact .inl ⟨h, by simp [Decoder.cdecLeadOut, h]⟩
  · right
    have hne : x.rbytes ≠ [] := by intro e; simp [e] at h
    obtain ⟨payload, rx, e⟩ : ∃ payload rx, x.rbytes = payload ++ [rx] :=
      ⟨x.rbytes.dropLast, x.rbytes.getLast hne, (List.dropLast_append_getLast hne).symm⟩
    have hp : payload ≠ [] := by intro e'; simp [e, e'] at h
    by_cases hc : crc8 c payload = rx
    · refine .inl ⟨payload, rx, hp, e, hc, ?_⟩
      have h' : ¬ payload.length + 1 < 2 := by simpa [e] using h
      simp only [Decoder.cdecLeadOut, e, List.length_append, List.length_singleton, h', if_false, List.dropLast_concat,
        List.getLastD_concat, hc, if_true, Decoder.complete_eq]
    · refine .inr ⟨payload, rx, hp, e, hc, ?_⟩
      have h' : ¬ payload.length + 1 < 2 := by simpa [e] using h
      simp only [Decoder.cdecLeadOut, e, List.length_append, List.length_singleton, h', if_false, List.dropLast_concat,
        List.getLastD_concat, hc, Decoder.abortCorrupt_eq]

/-- Everything CDEC can do in state 2 (R195, R196). -/
theorem Decoder.cdecData_cases (c : Params) (x : Decoder) (p : Pulse) :
    (deviation p 5000 < x.eth ∧ x.cdecData c p = ({ x with maxerr := max x.maxerr (deviation p 5000) } : Decoder).cdecLeadOut c) ∨
      (¬ deviation p 5000 < x.eth ∧ deviation p 1500 < x.eth ∧
        x.cdecData c p =
          { dec := ({ x with maxerr := max x.maxerr (deviation p 1500) } : Decoder).wbit 1#1, packet := none, event := none }) ∨
      (¬ deviation p 5000 < x.eth ∧ ¬ deviation p 1500 < x.eth ∧ deviation p 500 < x.eth ∧
        x.cdecData c p =
          { dec := ({ x with maxerr := max x.maxerr (deviation p 500) } : Decoder).wbit 0#1, packet := none, event := none }) ∨
      (¬ deviation p 5000 < x.eth ∧ ¬ deviation p 1500 < x.eth ∧ ¬ deviation p 500 < x.eth ∧
        x.cdecData c p = { dec := x.aborted, packet := none, event := none }) := by
  obtain ⟨h5, e5⟩ | ⟨h5, e5⟩ := x.matchPulse_cases p 5000
  · exact .inl ⟨h5, by simp only [Decoder.cdecData, Config.crcLeadOut, e5]⟩
  obtain ⟨h1, e1⟩ | ⟨h1, e1⟩ := x.matchPulse_cases p 1500
  · exact .inr (.inl ⟨h5, h1, by simp only [Decoder.cdecData, Config.crcLeadOut, Config.crcBit1, e5, e1, Decoder.goOn_eq]⟩)
  obtain ⟨h0, e0⟩ | ⟨h0, e0⟩ := x.matchPulse_cases p 500
  · exact .inr (.inr (.inl ⟨h5, h1, h0, by
      simp only [Decoder.cdecData, Config.crcLeadOut, Config.crcBit1, Config.crcBit0, e5, e1, e0, Decoder.goOn_eq]⟩))
  · exact .inr (.inr (.inr ⟨h5, h1, h0, by
      simp only [Decoder.cdecData, Config.crcLeadOut, Config.crcBit1, Config.crcBit0, e5, e1, e0, Decoder.abort_eq]⟩))

theorem Decoder.cdecLeadOut_configuration (c : Params) (x : Decoder) : (x.cdecLeadOut c).dec.configuration = x.configuration := by
  obtain ⟨-, e⟩ | ⟨_, _, -, -, -, e⟩ | ⟨_, _, -, -, -, e⟩ := x.cdecLeadOut_cases c <;> simp [e]

theorem Decoder.cdecSeek_configuration (x : Decoder) (p : Pulse) : (x.cdecSeek p).dec.configuration = x.configuration := by
  obtain ⟨-, e⟩ | ⟨-, e⟩ := x.cdecSeek_cases p
  · rw [e]; rfl
  · rw [e]

theorem Decoder.cdecHeader_configuration (x : Decoder) (p : Pulse) : (x.cdecHeader p).dec.configuration = x.configuration := by
  obtain ⟨-, e⟩ | ⟨-, e⟩ := x.cdecHeader_cases p
  · rw [e]; rfl
  · rw [e]; rfl

theorem Decoder.cdecData_configuration (c : Params) (x : Decoder) (p : Pulse) :
    (x.cdecData c p).dec.configuration = x.configuration := by
  obtain ⟨-, e⟩ | ⟨-, -, e⟩ | ⟨-, -, -, e⟩ | ⟨-, -, -, e⟩ := x.cdecData_cases c p
  all_goals rw [e]
  · rw [Decoder.cdecLeadOut_configuration]; rfl
  · rw [Decoder.wbit_configuration]; rfl
  · rw [Decoder.wbit_configuration]; rfl
  · rfl

/-- CDEC's step never touches the configuration (R20). -/
theorem Decoder.cdec_configuration (c : Params) (x : Decoder) (p : Pulse) : (x.cdec c p).dec.configuration = x.configuration := by
  simp only [Decoder.cdec]
  split
  · exact x.cdecSeek_configuration p
  · split
    · exact x.cdecHeader_configuration p
    · split
      · exact x.cdecData_configuration c p
      · rfl

/-- No decoder step touches the configuration (R20). -/
theorem Decoder.step_configuration (c : Params) (x : Decoder) (p : Pulse) : (x.step c p).dec.configuration = x.configuration := by
  unfold Decoder.step
  split
  · exact x.tdec_configuration p
  · exact x.cdec_configuration c p

/-- A Tag step emits no event (R273). -/
theorem Decoder.tagArrive_event (x : Decoder) : x.tagArrive.event = none := by
  by_cases h : x.state = 17#8
  · rw [x.tagArrive_last h]
    obtain ⟨-, e⟩ | ⟨b, bs, -, e⟩ := x.tagComplete_cases <;> simp [e]
  · simp [x.tagArrive_inner h]

/-- A decoder that returned a packet has recorded a margin (R153). -/
theorem Decoder.step_packet_lasterr (c : Params) (x : Decoder) (p : Pulse) (h : (x.step c p).packet.isSome = true) :
    ∃ m, (x.step c p).dec.lasterr = some m := by
  have complete : ∀ y : Decoder, y.tagComplete.packet.isSome = true → ∃ m, y.tagComplete.dec.lasterr = some m := by
    intro y hy
    obtain ⟨-, e⟩ | ⟨b, bs, -, e⟩ := y.tagComplete_cases
    · simp [e] at hy
    · exact ⟨y.maxerr, by simp [e, Decoder.completed]⟩
  have arrive : ∀ y : Decoder, y.tagArrive.packet.isSome = true → ∃ m, y.tagArrive.dec.lasterr = some m := by
    intro y hy
    by_cases h17 : y.state = 17#8
    · rw [y.tagArrive_last h17] at hy ⊢; exact complete y hy
    · simp [y.tagArrive_inner h17] at hy
  have test : ∀ e n, (x.tagTest p e n).packet.isSome = true → ∃ m, (x.tagTest p e n).dec.lasterr = some m := by
    intro e n hy
    by_cases hd : deviation p e < x.eth
    · rw [x.tagTest_hit p e n hd] at hy ⊢; exact arrive _ hy
    · simp [x.tagTest_miss p e n hd] at hy
  have space : ∀ n, (x.tagSpaceTest p n).packet.isSome = true → ∃ m, (x.tagSpaceTest p n).dec.lasterr = some m := by
    intro n hy
    by_cases h1 : deviation p 2000 < x.eth
    · rw [x.tagSpaceTest_one p n h1] at hy ⊢; exact arrive _ hy
    · by_cases h0 : deviation p 1000 < x.eth
      · rw [x.tagSpaceTest_zero p n h1 h0] at hy ⊢; exact arrive _ hy
      · simp [x.tagSpaceTest_miss p n h1 h0] at hy
  unfold Decoder.step at h ⊢
  split at h
  · simp only [Decoder.tdec] at h ⊢
    split at h
    · next hs => simp only [hs, if_true]; exact test _ _ h
    · next hs =>
      simp only [hs, if_false]
      split at h
      · next hs' =>
        simp only [hs', if_true]
        split at h
        · next hs'' => simp only [hs'', if_true]; exact test _ _ h
        · next hs'' => simp only [hs'', if_false]; exact space _ h
      · next hs' =>
        simp only [hs', if_false]
        split at h
        · next hs'' => simp only [hs'', if_true]; exact complete x h
        · simp at h
  · simp only [Decoder.cdec] at h ⊢
    split at h
    · obtain ⟨-, e⟩ | ⟨-, e⟩ := x.cdecSeek_cases p <;> simp [e] at h
    · next hs0 =>
      simp only [hs0, if_false]
      split at h
      · obtain ⟨-, e⟩ | ⟨-, e⟩ := x.cdecHeader_cases p <;> simp [e] at h
      · next hs1 =>
        simp only [hs1, if_false]
        split at h
        · next hs2 =>
          simp only [hs2, if_true]
          obtain ⟨-, e⟩ | ⟨-, -, e⟩ | ⟨-, -, -, e⟩ | ⟨-, -, -, e⟩ := x.cdecData_cases c p <;> rw [e] at h ⊢
          · set y : Decoder := { x with maxerr := max x.maxerr (deviation p 5000) } with hy
            obtain ⟨-, e'⟩ | ⟨_, _, -, -, -, e'⟩ | ⟨_, _, -, -, -, e'⟩ := y.cdecLeadOut_cases c
            · simp [e'] at h
            · exact ⟨y.maxerr, by simp [e', Decoder.completed]⟩
            · simp [e'] at h
          all_goals simp at h
        · simp at h

end Sys2Proof.Machine
end

