-- ==== Sys2Proof/Laws/Loops.lean ====
section
/-! SUPPORT. `NextPulse` and the loops of RECV and MRECV: every pull that returns a pulse uses one up, so the loops never reach their bounds,
and they obey the equations of their pseudocode (spec R221, R230). -/

namespace Sys2Proof.Machine

/-! ### `NextPulse` -/

/-- The pulses of a source, with the first arrivals apart. -/
theorem Source.pulses_eq (src : Source) :
    src.pulses = (src.queue ++ src.arrivals.headD []).length + (src.arrivals.tail.map List.length).sum := by
  rcases src with ⟨q, _ | ⟨a, as⟩⟩ <;> simp [Source.pulses, Nat.add_assoc]

/-- A pull that returns a pulse leaves one pulse less. -/
theorem Source.nextPulse_some {src src' : Source} {p : Pulse} (h : src.nextPulse = (some p, src')) : src.pulses = src'.pulses + 1 := by
  unfold Source.nextPulse at h
  split at h
  · cases h
  · next p' rest e =>
    simp only [Prod.mk.injEq, Option.some.injEq] at h
    obtain ⟨rfl, rfl⟩ := h
    rw [Source.pulses_eq, e]
    simp only [Source.pulses, List.length_cons]
    omega

/-- A pull that answers absent finds and leaves an empty queue. -/
theorem Source.nextPulse_none {src src' : Source} (h : src.nextPulse = (none, src')) :
    src.queue = [] ∧ src' = { queue := [], arrivals := src.arrivals.tail } := by
  unfold Source.nextPulse at h
  split at h
  · next e =>
    simp only [Prod.mk.injEq, true_and] at h
    exact ⟨(List.append_eq_nil_iff.mp e).1, h.symm⟩
  · cases h

theorem Source.nextPulse_pulses_le (src : Source) : src.nextPulse.2.pulses ≤ src.pulses := by
  rcases h : src.nextPulse with ⟨_ | p, src'⟩
  · obtain ⟨hq, rfl⟩ := Source.nextPulse_none h
    rcases src with ⟨q, _ | ⟨a, as⟩⟩ <;> simp [Source.pulses]
    simp only at hq
    omega
  · have := Source.nextPulse_some h
    simp only
    omega

/-! ### RECV -/

/-- The loop with more room than the source has pulses does not depend on how much more. -/
theorem recvLoop_room (c : Params) : ∀ (n k : Nat) (src : Source) (d : Decoder), src.pulses < n →
    recvLoop c (n + k) src d = recvLoop c n src d := by
  intro n
  induction n with
  | zero => intro k src d h; omega
  | succ n ih =>
    intro k src d h
    rw [Nat.add_right_comm]
    simp only [recvLoop]
    rcases hs : src.nextPulse with ⟨_ | p, src'⟩
    · rfl
    · have := Source.nextPulse_some hs
      cases hp : (d.step c p).packet with
      | some q => simp [hp]
      | none => simp only [hp]; rw [ih k src' _ (by omega)]

/-- RECV's loop when the source answers absent. -/
theorem recvAll_absent (c : Params) {src src' : Source} (d : Decoder) (h : src.nextPulse = (none, src')) :
    recvAll c src d = { src := src', dec := d, packet := none, events := [] } := by
  simp [recvAll, recvLoop, h]

/-- RECV's loop when the decoder returns a packet. -/
theorem recvAll_packet (c : Params) {src src' : Source} {d : Decoder} {p : Pulse} {k : Packet} (h : src.nextPulse = (some p, src'))
    (hk : (d.step c p).packet = some k) :
    recvAll c src d = { src := src', dec := (d.step c p).dec, packet := some k, events := (d.step c p).events } := by
  simp [recvAll, recvLoop, h, hk]

/-- RECV's loop when the decoder goes on. -/
theorem recvAll_next (c : Params) {src src' : Source} {d : Decoder} {p : Pulse} (h : src.nextPulse = (some p, src'))
    (hk : (d.step c p).packet = none) :
    recvAll c src d =
      { recvAll c src' (d.step c p).dec with events := (d.step c p).events ++ (recvAll c src' (d.step c p).dec).events } := by
  have e := Source.nextPulse_some h
  simp only [recvAll, e]
  conv_lhs => rw [recvLoop]
  simp only [h, hk]

/-- The loop of RECV by its three cases: what holds of every end of the loop holds of its result. -/
theorem recvAll_induction (c : Params) {motive : Source → Decoder → Received → Prop}
    (absent : ∀ src src' d, src.nextPulse = (none, src') → motive src d { src := src', dec := d, packet := none, events := [] })
    (packet : ∀ src src' d p k, src.nextPulse = (some p, src') → (d.step c p).packet = some k →
      motive src d { src := src', dec := (d.step c p).dec, packet := some k, events := (d.step c p).events })
    (next : ∀ src src' d p z, src.nextPulse = (some p, src') → (d.step c p).packet = none → motive src' (d.step c p).dec z →
      motive src d { z with events := (d.step c p).events ++ z.events }) :
    ∀ src d, motive src d (recvAll c src d) := by
  intro src
  induction hn : src.pulses using Nat.strong_induction_on generalizing src with
  | _ n ih =>
    intro d
    rcases hs : src.nextPulse with ⟨_ | p, src'⟩
    · rw [recvAll_absent c d hs]; exact absent src src' d hs
    · have e := Source.nextPulse_some hs
      cases hk : (d.step c p).packet with
      | some k => rw [recvAll_packet c hs hk]; exact packet src src' d p k hs hk
      | none => rw [recvAll_next c hs hk]; exact next src src' d p _ hs hk (ih src'.pulses (by omega) src' rfl _)

/-! ### MRECV -/

/-- A sensor's round: its source never holds more than before, and less if it gave a pulse. -/
theorem Sensor.pull_pulses (c : Params) (x : Sensor) :
    (x.pull c).sensor.src.pulses + (if (x.pull c).got then 1 else 0) ≤ x.src.pulses := by
  unfold Sensor.pull
  rcases hs : x.src.nextPulse with ⟨_ | p, src'⟩
  · have := x.src.nextPulse_pulses_le
    rw [hs] at this
    simpa using this
  · have := Source.nextPulse_some hs
    simp
    omega

theorem totalPulses_cons (x : Sensor) (xs : List Sensor) : totalPulses (x :: xs) = x.src.pulses + totalPulses xs := by
  simp [totalPulses]

theorem totalPulses_round_le (c : Params) (xs : List Sensor) :
    totalPulses ((xs.map (Sensor.pull c)).map Pull.sensor) ≤ totalPulses xs := by
  induction xs with
  | nil => simp
  | cons x xs ih =>
    have := x.pull_pulses c
    simp only [List.map_cons, totalPulses_cons]
    omega

/-- A round that takes a pulse leaves less than there was. -/
theorem totalPulses_round_lt (c : Params) (xs : List Sensor) (h : (xs.map (Sensor.pull c)).any Pull.got = true) :
    totalPulses ((xs.map (Sensor.pull c)).map Pull.sensor) < totalPulses xs := by
  induction xs with
  | nil => simp at h
  | cons x xs ih =>
    have hx := x.pull_pulses c
    have hle := totalPulses_round_le c xs
    simp only [List.map_cons, totalPulses_cons, List.any_cons, Bool.or_eq_true] at h ⊢
    rcases h with h | h
    · simp only [h, if_true] at hx
      omega
    · have := ih h
      split at hx <;> omega

/-- The loop with more room than the sources have pulses does not depend on how much more. -/
theorem mrecvLoop_room (c : Params) : ∀ (n k : Nat) (xs : List Sensor), totalPulses xs < n → mrecvLoop c (n + k) xs = mrecvLoop c n xs := by
  intro n
  induction n with
  | zero => intro k xs h; omega
  | succ n ih =>
    intro k xs h
    rw [Nat.add_right_comm]
    simp only [mrecvLoop]
    split
    · rfl
    · split
      · next hg =>
        have := totalPulses_round_lt c xs hg
        rw [ih k _ (by omega)]
      · rfl

/-- MRECV's loop when the first round completes. -/
theorem mrecvAll_complete (c : Params) (xs : List Sensor) (h : (xs.map (Sensor.pull c)).any (fun q => q.packet.isSome) = true) :
    mrecvAll c xs = arbitrate (xs.map (Sensor.pull c)) := by
  simp only [mrecvAll, mrecvLoop, h, if_true]

/-- MRECV's loop when the first round pulls nothing. -/
theorem mrecvAll_absent (c : Params) (xs : List Sensor) (h : (xs.map (Sensor.pull c)).any (fun q => q.packet.isSome) = false)
    (hg : (xs.map (Sensor.pull c)).any Pull.got = false) :
    mrecvAll c xs = { sensors := (xs.map (Sensor.pull c)).map Pull.sensor, packet := none, events := [] } := by
  simp only [mrecvAll, mrecvLoop, h, hg, Bool.false_eq_true, if_false]

/-- MRECV's loop when the first round pulls but does not complete. -/
theorem mrecvAll_next (c : Params) (xs : List Sensor) (h : (xs.map (Sensor.pull c)).any (fun q => q.packet.isSome) = false)
    (hg : (xs.map (Sensor.pull c)).any Pull.got = true) :
    mrecvAll c xs =
      { mrecvAll c ((xs.map (Sensor.pull c)).map Pull.sensor) with
        events := roundEvents (xs.map (Sensor.pull c)) ++ (mrecvAll c ((xs.map (Sensor.pull c)).map Pull.sensor)).events } := by
  have lt := totalPulses_round_lt c xs hg
  obtain ⟨k, e⟩ : ∃ k, totalPulses xs = totalPulses ((xs.map (Sensor.pull c)).map Pull.sensor) + 1 + k :=
    ⟨totalPulses xs - (totalPulses ((xs.map (Sensor.pull c)).map Pull.sensor) + 1), by omega⟩
  conv_lhs => rw [mrecvAll, mrecvLoop]
  simp only [h, hg, Bool.false_eq_true, if_false, if_true]
  rw [e, mrecvLoop_room c _ k _ (by omega)]
  rfl

/-- The loop of MRECV by its three cases: what holds of every end of the loop holds of its result. -/
theorem mrecvAll_induction (c : Params) {motive : List Sensor → Arbitrated → Prop}
    (complete : ∀ xs, (xs.map (Sensor.pull c)).any (fun q => q.packet.isSome) = true → motive xs (arbitrate (xs.map (Sensor.pull c))))
    (absent : ∀ xs, (xs.map (Sensor.pull c)).any (fun q => q.packet.isSome) = false → (xs.map (Sensor.pull c)).any Pull.got = false →
      motive xs { sensors := (xs.map (Sensor.pull c)).map Pull.sensor, packet := none, events := [] })
    (next : ∀ xs z, (xs.map (Sensor.pull c)).any (fun q => q.packet.isSome) = false → (xs.map (Sensor.pull c)).any Pull.got = true →
      motive ((xs.map (Sensor.pull c)).map Pull.sensor) z →
      motive xs { z with events := roundEvents (xs.map (Sensor.pull c)) ++ z.events }) :
    ∀ xs, motive xs (mrecvAll c xs) := by
  intro xs
  induction hn : totalPulses xs using Nat.strong_induction_on generalizing xs with
  | _ n ih =>
    cases h : (xs.map (Sensor.pull c)).any (fun q => q.packet.isSome) with
    | true => rw [mrecvAll_complete c xs h]; exact complete xs h
    | false =>
      cases hg : (xs.map (Sensor.pull c)).any Pull.got with
      | false => rw [mrecvAll_absent c xs h hg]; exact absent xs h hg
      | true =>
        have lt := totalPulses_round_lt c xs hg
        rw [mrecvAll_next c xs h hg]
        exact next xs _ h hg (ih _ (by omega) _ rfl)

/-! ### The operations -/

/-- Everything RECV can do when it gives a next state. -/
theorem execRecv_next {r : Nat} {s t : State} (h : execRecv r s = .next t) :
    ∃ x z, s.receivers[r]? = some x ∧ z = recvAll s.params x.src x.dec ∧
      t = ({ s with receivers := s.receivers.set r ⟨z.src, z.dec⟩ }).respond (.packet z.packet) z.events := by
  unfold execRecv at h
  split at h
  · simp only [Host.Outcome.next.injEq] at h
    exact ⟨_, _, by assumption, rfl, h.symm⟩
  · cases h

/-- RECV on a receiver of the block. -/
theorem execRecv_some {r : Nat} {s : State} {x : Receiver} (h : s.receivers[r]? = some x) :
    execRecv r s =
      .next (({ s with receivers := s.receivers.set r ⟨(recvAll s.params x.src x.dec).src, (recvAll s.params x.src x.dec).dec⟩ }).respond
        (.packet (recvAll s.params x.src x.dec).packet) (recvAll s.params x.src x.dec).events) := by
  simp [execRecv, h]

/-- Everything MRECV can do when it gives a next state. -/
theorem execMrecv_next {m : Nat} {s t : State} (h : execMrecv m s = .next t) :
    ∃ u z, s.multis[m]? = some u ∧ z = mrecvAll s.params u.sensors ∧
      t = ({ s with multis := s.multis.set m ⟨z.sensors⟩ }).respond (.packet z.packet) z.events := by
  unfold execMrecv at h
  split at h
  · simp only [Host.Outcome.next.injEq] at h
    exact ⟨_, _, by assumption, rfl, h.symm⟩
  · cases h

/-- MRECV on a multi-sensor receiver of the block. -/
theorem execMrecv_some {m : Nat} {s : State} {u : Multi} (h : s.multis[m]? = some u) :
    execMrecv m s =
      .next (({ s with multis := s.multis.set m ⟨(mrecvAll s.params u.sensors).sensors⟩ }).respond
        (.packet (mrecvAll s.params u.sensors).packet) (mrecvAll s.params u.sensors).events) := by
  simp [execMrecv, h]

end Sys2Proof.Machine
end

