-- ==== Sys2Proof/Laws/Arbiter.lean ====
section
/-! SUPPORT. What the arbiter's two searches of a snapshot give, said once: the lowest margin (spec R233, R240) and the ranked list
(R241). -/

namespace Sys2Proof.Machine

/-- `best` is the lowest margin of `snap`, the lowest index among equals; none when no entry is present. -/
def IsBest (snap : List (Option SnapEntry)) : Option (Nat × SnapEntry) → Prop
  | none => ∀ (j : Nat) (f : SnapEntry), snap[j]? ≠ some (some f)
  | some (w, e) => snap[w]? = some (some e) ∧
      ∀ (j : Nat) (f : SnapEntry), snap[j]? = some (some f) → e.margin ≤ f.margin ∧ (j < w → e.margin < f.margin)

/-- One more entry, absent. -/
theorem IsBest.snoc_none {pre : List (Option SnapEntry)} {best : Option (Nat × SnapEntry)} (h : IsBest pre best) :
    IsBest (pre ++ [none]) best := by
  have old : ∀ (j : Nat) (f : SnapEntry), (pre ++ [none])[j]? = some (some f) → pre[j]? = some (some f) := by
    intro j f hj
    rcases Nat.lt_trichotomy j pre.length with hlt | rfl | hgt
    · rwa [List.getElem?_append_left hlt] at hj
    · simp at hj
    · rw [List.getElem?_append_right (by omega), List.getElem?_eq_none (by simp; omega)] at hj; cases hj
  cases best with
  | none => exact fun j f hj => h j f (old j f hj)
  | some b =>
    refine ⟨?_, fun j f hj => h.2 j f (old j f hj)⟩
    have hlt : b.1 < pre.length := by
      by_contra hge
      have := h.1
      rw [List.getElem?_eq_none (by omega)] at this
      cases this
    rw [List.getElem?_append_left hlt]
    exact h.1

/-- One more entry, present: it is the best if it is the first one or strictly lower. -/
theorem IsBest.snoc_some {pre : List (Option SnapEntry)} {best : Option (Nat × SnapEntry)} (a : SnapEntry) :
    IsBest pre best → IsBest (pre ++ [some a]) (some (match best with
      | none => (pre.length, a)
      | some (w, f) => if a.margin < f.margin then (pre.length, a) else (w, f))) := by
  intro h
  have old : ∀ (j : Nat) (f : SnapEntry), (pre ++ [some a])[j]? = some (some f) →
      (j < pre.length ∧ pre[j]? = some (some f)) ∨ (j = pre.length ∧ f = a) := by
    intro j f hj
    rcases Nat.lt_trichotomy j pre.length with hlt | rfl | hgt
    · rw [List.getElem?_append_left hlt] at hj; exact .inl ⟨hlt, hj⟩
    · simp at hj; exact .inr ⟨rfl, hj.symm⟩
    · rw [List.getElem?_append_right (by omega), List.getElem?_eq_none (by simp; omega)] at hj; cases hj
  cases best with
  | none =>
    refine ⟨by simp, fun j f hj => ?_⟩
    obtain ⟨-, hj⟩ | ⟨rfl, rfl⟩ := old j f hj
    · exact absurd hj (h j f)
    · exact ⟨Nat.le_refl _, fun hlt => absurd hlt (Nat.lt_irrefl _)⟩
  | some b =>
    obtain ⟨w, g⟩ := b
    have hw : w < pre.length := by
      by_contra hge
      have := h.1
      rw [List.getElem?_eq_none (by omega)] at this
      cases this
    by_cases hlow : a.margin < g.margin
    · simp only [hlow, if_true]
      refine ⟨by simp, fun j f hj => ?_⟩
      obtain ⟨-, hj⟩ | ⟨rfl, rfl⟩ := old j f hj
      · have := (h.2 j f hj).1
        exact ⟨by omega, fun _ => by omega⟩
      · exact ⟨Nat.le_refl _, fun hlt => absurd hlt (Nat.lt_irrefl _)⟩
    · simp only [hlow, if_false]
      refine ⟨by rw [List.getElem?_append_left hw]; exact h.1, fun j f hj => ?_⟩
      obtain ⟨-, hj⟩ | ⟨rfl, rfl⟩ := old j f hj
      · exact h.2 j f hj
      · exact ⟨by omega, fun hlt => by omega⟩

/-- The scan from a correct start is correct at its end. -/
theorem scanBest_isBest : ∀ (snap pre : List (Option SnapEntry)) (best : Option (Nat × SnapEntry)), IsBest pre best →
    IsBest (pre ++ snap) (scanBest pre.length best snap) := by
  intro snap
  induction snap with
  | nil => intro pre best h; simpa [scanBest] using h
  | cons a rest ih =>
    intro pre best h
    cases a with
    | none =>
      have := ih (pre ++ [none]) best h.snoc_none
      simpa [scanBest] using this
    | some e =>
      have := ih (pre ++ [some e]) _ (IsBest.snoc_some e h)
      cases best <;> simpa [scanBest] using this

/-- What `bestOf` gives (R233, R240). -/
theorem bestOf_isBest (snap : List (Option SnapEntry)) : IsBest snap (bestOf snap) := by
  have := scanBest_isBest snap [] none (by intro j f; simp)
  simpa [bestOf] using this

/-- There is one best entry. -/
theorem IsBest.unique {snap : List (Option SnapEntry)} {b c : Option (Nat × SnapEntry)} (hb : IsBest snap b) (hc : IsBest snap c) : b = c := by
  rcases b with _ | ⟨w, e⟩ <;> rcases c with _ | ⟨v, f⟩
  · rfl
  · exact absurd hc.1 (hb v f)
  · exact absurd hb.1 (hc w e)
  · have h1 := hb.2 v f hc.1
    have h2 := hc.2 w e hb.1
    have hwv : w = v := by
      rcases Nat.lt_trichotomy w v with h | h | h
      · have := h2.2 h; omega
      · exact h
      · have := h1.2 h; omega
    subst hwv
    have := hb.1.symm.trans hc.1
    simp only [Option.some.injEq] at this
    rw [this]

/-! ### The ranked list -/

/-- An entry stands before another in the ranked list: lower margin, or the same and a lower index (R241). -/
def RankedBefore (x y : Nat × SnapEntry) : Prop := x.2.margin < y.2.margin ∨ (x.2.margin = y.2.margin ∧ x.1 < y.1)

/-- The insertion adds its entry and no other. -/
theorem mem_insertRanked {x y : Nat × SnapEntry} {l : List (Nat × SnapEntry)} : y ∈ insertRanked x l ↔ y = x ∨ y ∈ l := by
  induction l with
  | nil => simp [insertRanked]
  | cons z zs ih =>
    simp only [insertRanked]
    split
    · simp
    · simp only [List.mem_cons, ih]; tauto

/-- Inserting an entry of a higher index than all keeps the list ranked. -/
theorem insertRanked_ranked {x : Nat × SnapEntry} {l : List (Nat × SnapEntry)} (hl : l.Pairwise RankedBefore) (hx : ∀ y ∈ l, y.1 < x.1) :
    (insertRanked x l).Pairwise RankedBefore := by
  induction l with
  | nil => simp [insertRanked]
  | cons z zs ih =>
    rw [List.pairwise_cons] at hl
    simp only [insertRanked]
    split
    · next hlt =>
      refine List.pairwise_cons.mpr ⟨fun y hy => ?_, List.pairwise_cons.mpr hl⟩
      rcases List.mem_cons.mp hy with rfl | hy
      · exact .inl hlt
      · have := hl.1 y hy
        unfold RankedBefore at this ⊢
        omega
    · next hge =>
      refine List.pairwise_cons.mpr ⟨fun y hy => ?_, ih hl.2 fun y hy => hx y (List.mem_cons_of_mem _ hy)⟩
      rcases mem_insertRanked.mp hy with rfl | hy
      · have := hx z List.mem_cons_self
        unfold RankedBefore
        omega
      · exact hl.1 y hy

/-- The present entries, by index. -/
theorem mem_presentFrom {snap : List (Option SnapEntry)} : ∀ {i k : Nat} {e : SnapEntry},
    (k, e) ∈ presentFrom i snap ↔ ∃ j, k = i + j ∧ snap[j]? = some (some e) := by
  induction snap with
  | nil => simp [presentFrom]
  | cons a rest ih =>
    intro i k e
    have shift : (∃ j, k = i + 1 + j ∧ rest[j]? = some (some e)) ↔ ∃ j, k = i + (j + 1) ∧ (a :: rest)[j + 1]? = some (some e) := by
      constructor <;> rintro ⟨j, hk, hj⟩ <;> exact ⟨j, by omega, by simpa using hj⟩
    cases a with
    | none =>
      simp only [presentFrom, ih, shift]
      constructor
      · rintro ⟨j, hk, hj⟩; exact ⟨j + 1, hk, hj⟩
      · rintro ⟨_ | j, hk, hj⟩
        · simp at hj
        · exact ⟨j, hk, hj⟩
    | some f =>
      simp only [presentFrom, List.mem_cons, ih, shift, Prod.mk.injEq]
      constructor
      · rintro (⟨rfl, rfl⟩ | ⟨j, hk, hj⟩)
        · exact ⟨0, by simp⟩
        · exact ⟨j + 1, hk, hj⟩
      · rintro ⟨_ | j, hk, hj⟩
        · left; simp at hj; exact ⟨by simpa using hk, hj.symm⟩
        · exact .inr ⟨j, hk, hj⟩

/-- The present entries stand in ascending index. -/
theorem presentFrom_ascending {snap : List (Option SnapEntry)} : ∀ {i : Nat}, (presentFrom i snap).Pairwise (fun x y => x.1 < y.1) := by
  induction snap with
  | nil => simp [presentFrom]
  | cons a rest ih =>
    intro i
    cases a with
    | none => exact ih
    | some e =>
      refine List.pairwise_cons.mpr ⟨fun y hy => ?_, ih⟩
      obtain ⟨j, hk, -⟩ := mem_presentFrom.mp (show (y.1, y.2) ∈ _ from hy)
      simp only
      omega

/-- Insertion one by one, in ascending index, ranks. -/
theorem foldl_insertRanked : ∀ (l acc : List (Nat × SnapEntry)), l.Pairwise (fun x y => x.1 < y.1) → (∀ x ∈ acc, ∀ y ∈ l, x.1 < y.1) →
    acc.Pairwise RankedBefore →
      (l.foldl (fun acc x => insertRanked x acc) acc).Pairwise RankedBefore ∧
        ∀ z, z ∈ l.foldl (fun acc x => insertRanked x acc) acc ↔ z ∈ acc ∨ z ∈ l := by
  intro l
  induction l with
  | nil => intro acc _ _ h; exact ⟨h, by simp⟩
  | cons x xs ih =>
    intro acc hasc hlt hacc
    rw [List.pairwise_cons] at hasc
    obtain ⟨h1, h2⟩ := ih (insertRanked x acc) hasc.2
      (fun z hz y hy => by
        rcases mem_insertRanked.mp hz with rfl | hz
        · exact hasc.1 y hy
        · exact hlt z hz y (List.mem_cons_of_mem _ hy))
      (insertRanked_ranked hacc fun y hy => hlt y hy x List.mem_cons_self)
    refine ⟨h1, fun z => ?_⟩
    rw [List.foldl_cons, h2, mem_insertRanked, List.mem_cons]
    tauto

/-- What `rankOf` gives: the present entries (R241). -/
theorem mem_rankOf {snap : List (Option SnapEntry)} {i : Nat} {e : SnapEntry} : (i, e) ∈ rankOf snap ↔ snap[i]? = some (some e) := by
  have := (foldl_insertRanked (presentFrom 0 snap) [] presentFrom_ascending (by simp) List.Pairwise.nil).2 (i, e)
  rw [rankOf, this, mem_presentFrom]
  simp

/-- What `rankOf` gives: ascending margin and, among equals, ascending index (R241). -/
theorem rankOf_ranked (snap : List (Option SnapEntry)) : (rankOf snap).Pairwise RankedBefore :=
  (foldl_insertRanked (presentFrom 0 snap) [] presentFrom_ascending (by simp) List.Pairwise.nil).1

end Sys2Proof.Machine
end

