-- ==== Sys2Proof/Laws/Exec.lean ====
section
/-! SUPPORT. Everything an instruction can do when it gives a next state, said once over all instructions. -/

namespace Sys2Proof.Machine

/-- A next state of an instruction that writes a decoder: that decoder's record, with its configuration as before, and the answer. -/
theorem exec_next_of_writesDecoder {i : Instr} {d : DecRef} {s t : State} (hw : i.writesDecoder = some d) (h : exec i s = .next t) :
    ∃ x y r ev, s.decoder? d = some x ∧ y.configuration = x.configuration ∧ t = (s.setDecoder d y).respond r ev := by
  cases i <;> simp only [Instr.writesDecoder, Option.some.injEq, reduceCtorEq] at hw <;> subst hw <;> simp only [exec] at h
  case matchOp _ o e =>
    obtain ⟨x, hx, hk⟩ := onDecoder_next h
    simp only [Host.Outcome.next.injEq] at hk
    exact ⟨x, (x.matchPulse o e).1, _, _, hx, x.matchPulse_configuration _ _, hk.symm⟩
  case wbit _ b =>
    obtain ⟨x, hx, hk⟩ := onDecoder_next h
    simp only [Host.Outcome.next.injEq] at hk
    exact ⟨x, x.wbit b, _, _, hx, x.wbit_configuration _, hk.symm⟩
  case drst _ m =>
    obtain ⟨x, hx, hk⟩ := onDecoder_next h
    simp only [Host.Outcome.next.injEq] at hk
    exact ⟨x, x.drst m, _, _, hx, rfl, hk.symm⟩
  case tdec =>
    obtain ⟨x, hx, -, rfl⟩ := runStep_next h
    exact ⟨x, _, _, _, hx, x.tdec_configuration _, rfl⟩
  case cdec =>
    obtain ⟨x, hx, -, rfl⟩ := runStep_next h
    exact ⟨x, _, _, _, hx, x.cdec_configuration _ _, rfl⟩
  all_goals
    obtain ⟨x, hx, -, -, rfl⟩ := runRow_next h
    refine ⟨x, _, _, _, hx, ?_, rfl⟩
  case crclpS0 => exact x.cdecSeek_configuration _
  case crclpS1 => exact x.cdecHeader_configuration _
  case crclpS2 => exact x.cdecData_configuration _ _
  case tagS17 => exact x.tagComplete_configuration
  case tagS4 | tagS6 | tagS8 | tagS10 | tagS12 | tagS14 | tagS16 => exact x.tagSpaceTest_configuration _ _
  case tagS0 | tagS1 | tagS2 | tagS3 | tagS5 | tagS7 | tagS9 | tagS11 | tagS13 | tagS15 => exact x.tagTest_configuration _ _ _
  all_goals exact x.aborted_configuration

/-- Everything SEND can do when it gives a next state: it writes at most one sink, and answers its caller. -/
theorem execSend_next {n : Nat} {data : SendData} {k : Option Nat} {s t : State} (h : execSend n data k s = .next t) :
    (∃ r, t = s.respond r []) ∨ (∃ j snk snk' r, s.sinks[j]? = some snk ∧ t = ({ s with sinks := s.sinks.set j snk' }).respond r []) := by
  unfold execSend at h
  split at h
  · cases h
  · split at h
    · exact .inl ⟨_, (Host.Outcome.next.inj h).symm⟩
    · cases h
    · dsimp only at h
      split at h
      · cases h
      · next snk hk => exact .inr ⟨_, snk, _, _, hk, (Host.Outcome.next.inj h).symm⟩

/-- Everything an instruction that writes no decoder by its operand can do when it gives a next state: RECV and MRECV run their loops,
SEND calls a sink, and every other one only answers its caller. -/
theorem exec_next_of_not_writesDecoder {i : Instr} {s t : State} (hw : i.writesDecoder = none) (h : exec i s = .next t) :
    (∃ r x z, i = .recv r ∧ s.receivers[r]? = some x ∧ z = recvAll s.params x.src x.dec ∧
        t = ({ s with receivers := s.receivers.set r ⟨z.src, z.dec⟩ }).respond (.packet z.packet) z.events) ∨
      (∃ m u z, i = .mrecv m ∧ s.multis[m]? = some u ∧ z = mrecvAll s.params u.sensors ∧
        t = ({ s with multis := s.multis.set m ⟨z.sensors⟩ }).respond (.packet z.packet) z.events) ∨
      (∃ j snk snk' r, s.sinks[j]? = some snk ∧ t = ({ s with sinks := s.sinks.set j snk' }).respond r []) ∨
      (∃ r, t = s.respond r []) := by
  cases i <;> simp only [Instr.writesDecoder, reduceCtorEq] at hw <;> simp only [exec] at h
  case recv r =>
    obtain ⟨x, z, hx, hz, ht⟩ := execRecv_next h
    exact .inl ⟨r, x, z, rfl, hx, hz, ht⟩
  case mrecv m =>
    obtain ⟨u, z, hu, hz, ht⟩ := execMrecv_next h
    exact .inr (.inl ⟨m, u, z, rfl, hu, hz, ht⟩)
  case send =>
    obtain ht | hs := execSend_next h
    · exact .inr (.inr (.inr ht))
    · exact .inr (.inr (.inl hs))
  case rdlem | rdstr =>
    obtain ⟨x, -, hk⟩ := onDecoder_next h
    exact .inr (.inr (.inr ⟨_, (Host.Outcome.next.inj hk).symm⟩))
  case qbest | qrank | qwmar | qwstr =>
    obtain ⟨u, -, ht⟩ := onSnapshot_next h
    exact .inr (.inr (.inr ⟨_, ht⟩))
  case tgpk =>
    simp only [execTgpk] at h
    split at h <;> exact .inr (.inr (.inr ⟨_, (Host.Outcome.next.inj h).symm⟩))
  case tenc | tgup | crc8 | tagByte => exact .inr (.inr (.inr ⟨_, (Host.Outcome.next.inj h).symm⟩))
  all_goals cases h

/-- A step that gives a next state is idle, or it executes the oldest request on the state without it. -/
theorem step_next {s t : State} (h : step s = .next t) :
    (s.requests = [] ∧ t = s) ∨
      (∃ r rest i, s.requests = r :: rest ∧ decode r = .ok i ∧ (i.internal = false ∨ s.params.exposeUops = true) ∧
        exec i { s with requests := rest } = .next t) := by
  unfold step State.fetch at h
  cases hr : s.requests with
  | nil =>
    simp only [hr, Host.Outcome.next.injEq] at h
    exact .inl ⟨rfl, h.symm⟩
  | cons r rest =>
    simp only [hr, admitRequest] at h
    cases hd : decode r with
    | error e => simp [hd] at h
    | ok i =>
      simp only [hd] at h
      refine .inr ⟨r, rest, i, rfl, hd, ?_⟩
      cases hi : i.internal <;> cases he : s.params.exposeUops <;> simp [hi, he] at h ⊢ <;> exact h

end Sys2Proof.Machine
end

