-- ==== Sys2Proof/Tests/Slice0.lean ====
section
/-! SUPPORT. The model's own tests: well-formedness, the decoding of every constructor, one step of every instruction (expected values from
`spec/95_test_vectors.md` and the worked examples, named in the comments), and a witness for the hypotheses of every statement. -/

namespace Sys2Proof.Tests

open Sys2Proof Sys2Proof.Machine

/-! ### Helpers -/

/-- A decoder: protocol, threshold, STATE, RBYTES, BITIDX, CURBYTE, MAXERR, LASTERR. -/
def deco (proto : Protocol) (eth : Nat) (state : BitVec 8) (rbytes : List Byte) (bitidx : BitVec 3) (curbyte : Byte) (maxerr : Nat)
    (lasterr : Option Nat) : Decoder :=
  { proto := proto, eth := eth, state := state, rbytes := rbytes, bitidx := bitidx, curbyte := curbyte, maxerr := maxerr, lasterr := lasterr }

/-- A TAG decoder of threshold 500 with no byte assembled. -/
def tag (state : BitVec 8) (bitidx : BitVec 3) (curbyte : Byte) (maxerr : Nat) (lasterr : Option Nat) : Decoder :=
  deco .tag 500 state [] bitidx curbyte maxerr lasterr

/-- `RESET(x)` of a TAG decoder (95_test_vectors.md, Conventions). -/
def tagReset (lasterr : Option Nat) : Decoder := tag 0#8 7#3 0x00#8 0 lasterr

/-- A CRCLP decoder of threshold 200 between two bytes. -/
def crc (state : BitVec 8) (rbytes : List Byte) (maxerr : Nat) (lasterr : Option Nat) : Decoder :=
  deco .crclp 200 state rbytes 7#3 0x00#8 maxerr lasterr

/-- A sensor with what its source holds. -/
def sens (queue : List Pulse) (dec : Decoder) (snap : Option SnapEntry) : Sensor :=
  { src := { queue := queue, arrivals := [] }, dec := dec, snap := snap }

/-- The parameters of the block at reset. -/
def params : Params := { crcInit := 0x00#8, crcXorOut := 0x00#8, strengthFmt := 0, exposeUops := false }

/-- A small block: one receiver, one multi-sensor receiver, a TAG and a CRCLP transmitter on sink 0, a sink that fails and one that takes. -/
def block (queue : List Pulse) (dec : Decoder) (sensors : List Sensor) : State :=
  { params := params
    receivers := [{ src := { queue := queue, arrivals := [] }, dec := dec }]
    multis := [{ sensors := sensors }]
    transmitters := [{ proto := .tag, sink := 0 }, { proto := .crclp, sink := 0 }]
    sinks := [{ handed := [], answers := [.failure] }, { handed := [], answers := [.success] }]
    requests := []
    response := none }

/-- A block with one decoder of interest. -/
def one (dec : Decoder) : State := block [] dec []

/-- The next state of an answer, if it is one. -/
def next? : Answer → Option State
  | .next s => some s
  | .fault _ => none
  | .refused _ => none

/-- Why an answer refuses, if it does. -/
def refusal? : Answer → Option Refusal
  | .next _ => none
  | .fault _ => none
  | .refused r => some r

/-- The instruction of a request, if it is one. -/
def decoded? (r : Request) : Option Instr :=
  match decode r with
  | .ok i => some i
  | .error _ => none

/-- Running `i` on decoder `x`: the decoder after it and the answer. -/
def runOn (i : Instr) (x : Decoder) : Option (Option Decoder × Option Response) :=
  (next? (exec i (one x))).map fun t => (t.decoder? (.single 0), t.response)

/-- Running `i` on decoder `x`: the decoder after it and the result, without the word that carries a strength. -/
def resultOn (i : Instr) (x : Decoder) : Option (Option Decoder × Option Result) :=
  (next? (exec i (one x))).map fun t => (t.decoder? (.single 0), t.response.map Response.result)

/-- What a step of a decoder answers when it emits no event. -/
def answers (x : Decoder) (r : Result) : Option (Option Decoder × Option Response) :=
  some (some x, some { result := r, events := [] })

/-- `F52`. -/
def frame52 : List Pulse := [3000, 6000, 3000, 2000, 2000, 2000, 1000, 2000, 2000, 2000, 1000, 2000, 1000, 2000, 2000, 2000, 1000]

/-- Operand lines that all differ, so that a line read for another shows. -/
def lines : Lines :=
  { dec := .sensor 1 2, unit := 3, dur0 := 5960#16, dur1 := 6000#16, optDur := some 500#16, bit := 1#1, byte := 0x52#8,
    bytes := [0x12#8, 0x34#8], dataIsList := false, int0 := 2, int1 := -5, int2 := 9, sink := some 1 }

/-- A request with these lines. -/
def request (f : Format) (w : Byte) : Request := { format := f, word := w, lines := lines }

/-! ### Well-formedness: an ill-formed term for each check (spec D4, U17) -/

theorem test_wellFormed_admits_widest : Instr.wellFormed (.matchOp (.single 0) 65535 65535) = true := by decide
theorem test_wellFormed_refuses_observed : Instr.wellFormed (.matchOp (.single 0) 65536 0) = false := by decide
theorem test_wellFormed_refuses_expected : Instr.wellFormed (.matchOp (.single 0) 0 65536) = false := by decide
theorem test_wellFormed_refuses_margin : Instr.wellFormed (.drst (.single 0) (some 65536)) = false := by decide
theorem test_wellFormed_refuses_tdec_pulse : Instr.wellFormed (.tdec (.single 0) 65536) = false := by decide
theorem test_wellFormed_refuses_cdec_pulse : Instr.wellFormed (.cdec (.single 1) 65536) = false := by decide

/-- Every row of the Tag state map refuses a pulse that no port carries. -/
theorem test_wellFormed_refuses_tag_pulse : ∀ i ∈ [Instr.tagS0 (.single 0) 65536, .tagS1 (.single 0) 65536, .tagS2 (.single 0) 65536, .tagS3 (.single 0) 65536, .tagS4 (.single 0) 65536, .tagS5 (.single 0) 65536, .tagS6 (.single 0) 65536, .tagS7 (.single 0) 65536, .tagS8 (.single 0) 65536, .tagS9 (.single 0) 65536, .tagS10 (.single 0) 65536, .tagS11 (.single 0) 65536, .tagS12 (.single 0) 65536, .tagS13 (.single 0) 65536, .tagS14 (.single 0) 65536, .tagS15 (.single 0) 65536, .tagS16 (.single 0) 65536, .tagS17 (.single 0) 65536,
    .tagOther18 0 (.single 0) 65536, .tagOther20 0 (.single 0) 65536, .tagOther24 0 (.single 0) 65536, .tagOther32 0 (.single 0) 65536, .tagOther64 0 (.single 0) 65536, .tagOther128 0 (.single 0) 65536],
    Instr.wellFormed i = false := by decide
/-- Every row of the CRCLP state map refuses a pulse that no port carries. -/
theorem test_wellFormed_refuses_crclp_pulse : ∀ i ∈ [Instr.crclpS0 (.single 1) 65536, .crclpS1 (.single 1) 65536, .crclpS2 (.single 1) 65536,
    .crclpOther3 (.single 1) 65536, .crclpOther4 0 (.single 1) 65536, .crclpOther8 0 (.single 1) 65536, .crclpOther16 0 (.single 1) 65536, .crclpOther32 0 (.single 1) 65536, .crclpOther64 0 (.single 1) 65536, .crclpOther128 0 (.single 1) 65536],
    Instr.wellFormed i = false := by decide

/-! ### Decoding: every constructor, by a word written out from the spec's encoding (R110, R112, R96, R100, R91) -/

theorem test_decode_matchOp : decoded? (request .op 0b00000001#8) = some (.matchOp (.sensor 1 2) 5960 6000) := by decide
theorem test_decode_wbit : decoded? (request .op 0b00000010#8) = some (.wbit (.sensor 1 2) 1) := by decide
theorem test_decode_drst : decoded? (request .op 0b00000011#8) = some (.drst (.sensor 1 2) (some 500)) := by decide
theorem test_decode_rdlem : decoded? (request .op 0b00000100#8) = some (.rdlem (.sensor 1 2)) := by decide
theorem test_decode_rdstr : decoded? (request .op 0b00000101#8) = some (.rdstr (.sensor 1 2)) := by decide
theorem test_decode_tdec : decoded? (request .op 0b00001000#8) = some (.tdec (.sensor 1 2) 5960) := by decide
theorem test_decode_tenc : decoded? (request .op 0b00001001#8) = some (.tenc 0x52#8) := by decide
theorem test_decode_tgpk : decoded? (request .op 0b00001010#8) = some (.tgpk 2 (-5) 9) := by decide
theorem test_decode_tgup : decoded? (request .op 0b00001011#8) = some (.tgup 0x52#8) := by decide
theorem test_decode_cdec : decoded? (request .op 0b00001100#8) = some (.cdec (.sensor 1 2) 5960) := by decide
theorem test_decode_crc8 : decoded? (request .op 0b00001101#8) = some (.crc8 [0x12#8, 0x34#8]) := by decide
theorem test_decode_recv : decoded? (request .op 0b00010000#8) = some (.recv 3) := by decide
theorem test_decode_mrecv : decoded? (request .op 0b00010001#8) = some (.mrecv 3) := by decide
theorem test_decode_qbest : decoded? (request .op 0b00010010#8) = some (.qbest 3) := by decide
theorem test_decode_qrank : decoded? (request .op 0b00010011#8) = some (.qrank 3) := by decide
theorem test_decode_qwmar : decoded? (request .op 0b00010100#8) = some (.qwmar 3) := by decide
theorem test_decode_qwstr : decoded? (request .op 0b00010101#8) = some (.qwstr 3) := by decide
theorem test_decode_send : decoded? (request .op 0b00011000#8) = some (.send 3 (.byte 0x52#8) (some 1)) := by decide
theorem test_decode_reserved0 : decoded? (request .op 0b00000000#8) = some (.reserved0) := by decide
theorem test_decode_reserved6 : decoded? (request .op 0b00000111#8) = some (.reserved6 1) := by decide
theorem test_decode_reserved14 : decoded? (request .op 0b00001110#8) = some (.reserved14 0) := by decide
theorem test_decode_reserved22 : decoded? (request .op 0b00010111#8) = some (.reserved22 1) := by decide
theorem test_decode_reserved25 : decoded? (request .op 0b00011001#8) = some (.reserved25) := by decide
theorem test_decode_reserved26 : decoded? (request .op 0b00011011#8) = some (.reserved26 1) := by decide
theorem test_decode_reserved28 : decoded? (request .op 0b00011110#8) = some (.reserved28 2) := by decide
theorem test_decode_tagS0 : decoded? (request .tagState 0b00000000#8) = some (.tagS0 (.sensor 1 2) 5960) := by decide
theorem test_decode_tagS1 : decoded? (request .tagState 0b00000001#8) = some (.tagS1 (.sensor 1 2) 5960) := by decide
theorem test_decode_tagS2 : decoded? (request .tagState 0b00000010#8) = some (.tagS2 (.sensor 1 2) 5960) := by decide
theorem test_decode_tagS3 : decoded? (request .tagState 0b00000011#8) = some (.tagS3 (.sensor 1 2) 5960) := by decide
theorem test_decode_tagS4 : decoded? (request .tagState 0b00000100#8) = some (.tagS4 (.sensor 1 2) 5960) := by decide
theorem test_decode_tagS5 : decoded? (request .tagState 0b00000101#8) = some (.tagS5 (.sensor 1 2) 5960) := by decide
theorem test_decode_tagS6 : decoded? (request .tagState 0b00000110#8) = some (.tagS6 (.sensor 1 2) 5960) := by decide
theorem test_decode_tagS7 : decoded? (request .tagState 0b00000111#8) = some (.tagS7 (.sensor 1 2) 5960) := by decide
theorem test_decode_tagS8 : decoded? (request .tagState 0b00001000#8) = some (.tagS8 (.sensor 1 2) 5960) := by decide
theorem test_decode_tagS9 : decoded? (request .tagState 0b00001001#8) = some (.tagS9 (.sensor 1 2) 5960) := by decide
theorem test_decode_tagS10 : decoded? (request .tagState 0b00001010#8) = some (.tagS10 (.sensor 1 2) 5960) := by decide
theorem test_decode_tagS11 : decoded? (request .tagState 0b00001011#8) = some (.tagS11 (.sensor 1 2) 5960) := by decide
theorem test_decode_tagS12 : decoded? (request .tagState 0b00001100#8) = some (.tagS12 (.sensor 1 2) 5960) := by decide
theorem test_decode_tagS13 : decoded? (request .tagState 0b00001101#8) = some (.tagS13 (.sensor 1 2) 5960) := by decide
theorem test_decode_tagS14 : decoded? (request .tagState 0b00001110#8) = some (.tagS14 (.sensor 1 2) 5960) := by decide
theorem test_decode_tagS15 : decoded? (request .tagState 0b00001111#8) = some (.tagS15 (.sensor 1 2) 5960) := by decide
theorem test_decode_tagS16 : decoded? (request .tagState 0b00010000#8) = some (.tagS16 (.sensor 1 2) 5960) := by decide
theorem test_decode_tagS17 : decoded? (request .tagState 0b00010001#8) = some (.tagS17 (.sensor 1 2) 5960) := by decide
theorem test_decode_tagOther18 : decoded? (request .tagState 0b00010011#8) = some (.tagOther18 0b1#1 (.sensor 1 2) 5960) := by decide
theorem test_decode_tagOther20 : decoded? (request .tagState 0b00010110#8) = some (.tagOther20 0b10#2 (.sensor 1 2) 5960) := by decide
theorem test_decode_tagOther24 : decoded? (request .tagState 0b00011101#8) = some (.tagOther24 0b101#3 (.sensor 1 2) 5960) := by decide
theorem test_decode_tagOther32 : decoded? (request .tagState 0b00110101#8) = some (.tagOther32 0b10101#5 (.sensor 1 2) 5960) := by decide
theorem test_decode_tagOther64 : decoded? (request .tagState 0b01100110#8) = some (.tagOther64 0b100110#6 (.sensor 1 2) 5960) := by decide
theorem test_decode_tagOther128 : decoded? (request .tagState 0b11110001#8) = some (.tagOther128 0b1110001#7 (.sensor 1 2) 5960) := by decide
theorem test_decode_crclpS0 : decoded? (request .crclpState 0b00000000#8) = some (.crclpS0 (.sensor 1 2) 5960) := by decide
theorem test_decode_crclpS1 : decoded? (request .crclpState 0b00000001#8) = some (.crclpS1 (.sensor 1 2) 5960) := by decide
theorem test_decode_crclpS2 : decoded? (request .crclpState 0b00000010#8) = some (.crclpS2 (.sensor 1 2) 5960) := by decide
theorem test_decode_crclpOther3 : decoded? (request .crclpState 0b00000011#8) = some (.crclpOther3 (.sensor 1 2) 5960) := by decide
theorem test_decode_crclpOther4 : decoded? (request .crclpState 0b00000110#8) = some (.crclpOther4 0b10#2 (.sensor 1 2) 5960) := by decide
theorem test_decode_crclpOther8 : decoded? (request .crclpState 0b00001101#8) = some (.crclpOther8 0b101#3 (.sensor 1 2) 5960) := by decide
theorem test_decode_crclpOther16 : decoded? (request .crclpState 0b00010101#8) = some (.crclpOther16 0b0101#4 (.sensor 1 2) 5960) := by decide
theorem test_decode_crclpOther32 : decoded? (request .crclpState 0b00110101#8) = some (.crclpOther32 0b10101#5 (.sensor 1 2) 5960) := by decide
theorem test_decode_crclpOther64 : decoded? (request .crclpState 0b01100110#8) = some (.crclpOther64 0b100110#6 (.sensor 1 2) 5960) := by decide
theorem test_decode_crclpOther128 : decoded? (request .crclpState 0b11110001#8) = some (.crclpOther128 0b1110001#7 (.sensor 1 2) 5960) := by decide
theorem test_decode_tagByte : decoded? (request .dataByte 0b01010010#8) = some (.tagByte 0b10#2 0b100#3 0b10#2) := by decide
theorem test_decode_send_list :
    decoded? { format := .op, word := 0b00011000#8, lines := { lines with dataIsList := true } } = some (.send 3 (.bytes [0x12#8, 0x34#8]) (some 1)) :=
  by decide
theorem test_decode_refuses_wide_select_code : decoded? (request .op 0b00100001#8) = none := by decide
theorem test_decode_refuses_padded_tag_byte : decoded? (request .dataByte 0b11010010#8) = none := by decide
/-- A bare word of the table: RECV's code, then the Tag rows that no select code hides. -/
theorem test_decode_table_words : decodeTableWord 8 0b10000 = some (.recv 0) ∧ decodeTableWord 8 0b00100000 = some (.tagOther32 0 (.single 0) 0) ∧
    decodeTableWord 16 0x100 = none := by decide

/-! ### The decoder engine -/

/-- V-E1. -/
theorem test_match_takes_deviation_in : runOn (.matchOp (.single 0) 5960 6000) (tag 0#8 7#3 0#8 12 none) =
    answers (tag 0#8 7#3 0#8 40 none) (.flag true) := by decide
/-- V-E3. -/
theorem test_match_miss_writes_nothing : runOn (.matchOp (.single 0) 501 2000) (tag 0#8 7#3 0#8 40 none) =
    answers (tag 0#8 7#3 0#8 40 none) (.flag false) := by decide
/-- V-E10. -/
theorem test_wbit_inner : runOn (.wbit (.single 0) 0) (tag 0#8 6#3 0x80#8 0 none) = answers (tag 0#8 5#3 0x80#8 0 none) .unit := by decide
/-- V-E11. -/
theorem test_wbit_last : runOn (.wbit (.single 0) 0) (tag 0#8 0#3 0xA4#8 0 none) =
    answers (deco .tag 500 0#8 [0xA4#8] 7#3 0x00#8 0 none) .unit := by decide
/-- V-E12. -/
theorem test_drst : runOn (.drst (.single 0) (some 500)) (tag 9#8 4#3 0xA0#8 40 (some 7)) = answers (tagReset (some 500)) .unit := by decide
/-- V-E14, the reset-all form. -/
theorem test_drst_absent : runOn (.drst (.single 0) none) (tag 5#8 6#3 0x80#8 3 none) = answers (tagReset none) .unit := by decide
/-- V-E15. -/
theorem test_rdlem_absent : runOn (.rdlem (.single 0)) (tagReset none) = answers (tagReset none) (.margin none) := by decide
/-- V-E16. -/
theorem test_rdlem : runOn (.rdlem (.single 0)) (tagReset (some 500)) = answers (tagReset (some 500)) (.margin (some 500)) := by decide
/-- V-E24. -/
theorem test_rdstr : resultOn (.rdstr (.single 0)) (tagReset (some 499)) = some (some (tagReset (some 499)), some (.strength (some (151 / 500)))) := by
  decide +kernel
/-- V-E25, the point where the source's own test list is wrong (C2). -/
theorem test_rdstr_at_threshold : resultOn (.rdstr (.single 0)) (tagReset (some 500)) =
    some (some (tagReset (some 500)), some (.strength (some (3 / 10)))) := by decide +kernel
/-- The strength's word at the port is the free one of the port's format (D8); an absent strength has none. -/
theorem test_strengthWord : (Result.strength (some 1)).strengthWord 3 = some (Config.strengthAtPort 3 1) ∧
    (Result.strength none).strengthWord 3 = none ∧ (Result.margin (some 500)).strengthWord 3 = none := ⟨rfl, rfl, rfl⟩

/-! ### The Tag protocol -/

/-- V-T3. -/
theorem test_tdec_abort : runOn (.tdec (.single 0) 2500) (tag 0#8 7#3 0#8 0 none) = answers (tagReset (some 500)) (.packet none) := by decide
/-- V-T15. -/
theorem test_tdec_packet : runOn (.tdec (.single 0) 2000) (tag 16#8 1#3 0xA4#8 7 none) =
    answers (tagReset (some 7)) (.packet (some [0x53#8])) := by decide
/-- V-T31. -/
theorem test_tenc : runOn (.tenc 0xD2#8) (tagReset none) = answers (tagReset none) (.pulses frame52) := by decide
/-- V-T42. -/
theorem test_tgpk : runOn (.tgpk 2 5 3) (tagReset none) = answers (tagReset none) (.byte 0x52#8) := by decide
/-- V-T44. -/
theorem test_tgpk_range : runOn (.tgpk (-1) 1 1) (tagReset none) = answers (tagReset none) (.raised .rangeError) := by decide
/-- V-T55. -/
theorem test_tgup : runOn (.tgup 0x1C#8) (tagReset none) = answers (tagReset none) (.tag { team := 0, player := 8, damage := 1 }) := by decide
/-- V-T54, with bit 7 set. -/
theorem test_tgup_bit7 : runOn (.tgup 0xD2#8) (tagReset none) = answers (tagReset none) (.tag { team := 2, player := 5, damage := 3 }) := by
  decide
/-- SX7: team 10, player-1 100, damage-1 10. -/
theorem test_tagByte : runOn (.tagByte 0b10#2 0b100#3 0b10#2) (tagReset none) =
    answers (tagReset none) (.tag { team := 2, player := 5, damage := 3 }) := by decide

/-! The rows of the Tag state map: the trace of R175, from the state before its pulse to the state after it. -/

theorem test_tagS0 : runOn (.tagS0 (.single 0) 3012) (tag 0#8 7#3 0x00#8 0 none) =
    answers (tag 1#8 7#3 0x00#8 12 none) (.packet none) := by decide
theorem test_tagS1 : runOn (.tagS1 (.single 0) 5960) (tag 1#8 7#3 0x00#8 12 none) =
    answers (tag 2#8 7#3 0x00#8 40 none) (.packet none) := by decide
theorem test_tagS2 : runOn (.tagS2 (.single 0) 3007) (tag 2#8 7#3 0x00#8 40 none) =
    answers (tag 3#8 7#3 0x00#8 40 none) (.packet none) := by decide
theorem test_tagS3 : runOn (.tagS3 (.single 0) 1997) (tag 3#8 7#3 0x00#8 40 none) =
    answers (tag 4#8 7#3 0x00#8 40 none) (.packet none) := by decide
theorem test_tagS4 : runOn (.tagS4 (.single 0) 2025) (tag 4#8 7#3 0x00#8 40 none) =
    answers (tag 5#8 6#3 0x80#8 40 none) (.packet none) := by decide
theorem test_tagS5 : runOn (.tagS5 (.single 0) 2000) (tag 5#8 6#3 0x80#8 40 none) =
    answers (tag 6#8 6#3 0x80#8 40 none) (.packet none) := by decide
theorem test_tagS6 : runOn (.tagS6 (.single 0) 501) (tag 6#8 6#3 0x80#8 40 none) =
    answers (tag 7#8 5#3 0x80#8 499 none) (.packet none) := by decide
theorem test_tagS7 : runOn (.tagS7 (.single 0) 2100) (tag 7#8 5#3 0x80#8 499 none) =
    answers (tag 8#8 5#3 0x80#8 499 none) (.packet none) := by decide
theorem test_tagS8 : runOn (.tagS8 (.single 0) 1900) (tag 8#8 5#3 0x80#8 499 none) =
    answers (tag 9#8 4#3 0xA0#8 499 none) (.packet none) := by decide
theorem test_tagS9 : runOn (.tagS9 (.single 0) 2033) (tag 9#8 4#3 0xA0#8 499 none) =
    answers (tag 10#8 4#3 0xA0#8 499 none) (.packet none) := by decide
theorem test_tagS10 : runOn (.tagS10 (.single 0) 1001) (tag 10#8 4#3 0xA0#8 499 none) =
    answers (tag 11#8 3#3 0xA0#8 499 none) (.packet none) := by decide
theorem test_tagS11 : runOn (.tagS11 (.single 0) 1999) (tag 11#8 3#3 0xA0#8 499 none) =
    answers (tag 12#8 3#3 0xA0#8 499 none) (.packet none) := by decide
theorem test_tagS12 : runOn (.tagS12 (.single 0) 1060) (tag 12#8 3#3 0xA0#8 499 none) =
    answers (tag 13#8 2#3 0xA0#8 499 none) (.packet none) := by decide
theorem test_tagS13 : runOn (.tagS13 (.single 0) 1940) (tag 13#8 2#3 0xA0#8 499 none) =
    answers (tag 14#8 2#3 0xA0#8 499 none) (.packet none) := by decide
theorem test_tagS14 : runOn (.tagS14 (.single 0) 2005) (tag 14#8 2#3 0xA0#8 499 none) =
    answers (tag 15#8 1#3 0xA4#8 499 none) (.packet none) := by decide
theorem test_tagS15 : runOn (.tagS15 (.single 0) 2499) (tag 15#8 1#3 0xA4#8 499 none) =
    answers (tag 16#8 1#3 0xA4#8 499 none) (.packet none) := by decide
theorem test_tagS16 : runOn (.tagS16 (.single 0) 750) (tag 16#8 1#3 0xA4#8 499 none) =
    answers (tagReset (some 499)) (.packet (some [0x52#8])) := by decide
/-- V-T18. -/
theorem test_tagS17 : runOn (.tagS17 (.single 0) 1234) (tag 17#8 0#3 0xA4#8 0 none) = answers (tagReset (some 0)) (.packet (some [0x52#8])) := by
  decide
/-- V-T19. -/
theorem test_tagS17_no_byte : runOn (.tagS17 (.single 0) 1234) (tag 17#8 7#3 0x00#8 0 none) = answers (tagReset (some 500)) (.packet none) := by
  decide
/-- V-T17 (state 40) and R166 for the other rows, at a boundary of each. -/
theorem test_tagOther18 : runOn (.tagOther18 0b1#1 (.single 0) 3000) (tag 19#8 7#3 0x00#8 0 none) =
    answers (tagReset (some 500)) (.packet none) := by decide
theorem test_tagOther20 : runOn (.tagOther20 0b00#2 (.single 0) 3000) (tag 20#8 7#3 0x00#8 0 none) =
    answers (tagReset (some 500)) (.packet none) := by decide
theorem test_tagOther24 : runOn (.tagOther24 0b111#3 (.single 0) 3000) (tag 31#8 7#3 0x00#8 0 none) =
    answers (tagReset (some 500)) (.packet none) := by decide
theorem test_tagOther32 : runOn (.tagOther32 0b01000#5 (.single 0) 3000) (tag 40#8 7#3 0x00#8 0 none) =
    answers (tagReset (some 500)) (.packet none) := by decide
theorem test_tagOther64 : runOn (.tagOther64 0b000000#6 (.single 0) 3000) (tag 64#8 7#3 0x00#8 0 none) =
    answers (tagReset (some 500)) (.packet none) := by decide
theorem test_tagOther128 : runOn (.tagOther128 0b1111111#7 (.single 0) 3000) (tag 255#8 7#3 0x00#8 0 none) =
    answers (tagReset (some 500)) (.packet none) := by decide

/-! ### The CRCLP protocol -/

/-- V-CR1 at its last pulse. -/
theorem test_cdec_packet : runOn (.cdec (.single 0) 5000) (crc 2#8 [0x52#8, 0xE4#8] 0 none) =
    answers (crc 0#8 [] 0 (some 0)) (.packet (some [0x52#8])) := by decide
/-- V-CR2 at its last pulse. -/
theorem test_cdec_bad_crc : runOn (.cdec (.single 0) 5000) (crc 2#8 [0x52#8, 0xE5#8] 0 none) =
    some (some (crc 0#8 [] 0 (some 200)), some { result := .packet none, events := [.crc] }) := by decide
/-- V-CR15. -/
theorem test_crc8 : runOn (.crc8 [0x12#8, 0x34#8]) (crc 0#8 [] 0 none) = answers (crc 0#8 [] 0 none) (.byte 0x12#8) := by
  decide +kernel
/-- V-CR18: with the other open parameters. -/
theorem test_crc8_parameters : crc8 { params with crcInit := 0xFF#8, crcXorOut := 0xFF#8 } [0x52#8] = 0xDF#8 := by decide
/-- V-CR6. -/
theorem test_crclpS0_discards : runOn (.crclpS0 (.single 0) 123) (crc 0#8 [] 0 none) = answers (crc 0#8 [] 0 none) (.packet none) := by decide
/-- V-CR7, second pulse. -/
theorem test_crclpS1_aborts : runOn (.crclpS1 (.single 0) 2000) (crc 1#8 [] 0 none) = answers (crc 0#8 [] 0 (some 200)) (.packet none) := by
  decide
/-- V-CR8, last pulse. -/
theorem test_crclpS2_aborts : runOn (.crclpS2 (.single 0) 1000) (crc 2#8 [] 0 none) = answers (crc 0#8 [] 0 (some 200)) (.packet none) := by
  decide
/-- V-CR5, last pulse. -/
theorem test_crclpS2_short : runOn (.crclpS2 (.single 0) 5000) (crc 2#8 [] 0 none) =
    some (some (crc 0#8 [] 0 (some 200)), some { result := .packet none, events := [.short] }) := by decide
/-- V-CR21, and R199 for the other rows. -/
theorem test_crclpOther3 : runOn (.crclpOther3 (.single 0) 4000) (crc 3#8 [] 0 none) = answers (crc 0#8 [] 0 (some 200)) (.packet none) := by
  decide
theorem test_crclpOther4 : runOn (.crclpOther4 0b11#2 (.single 0) 4000) (crc 7#8 [] 0 none) =
    answers (crc 0#8 [] 0 (some 200)) (.packet none) := by decide
theorem test_crclpOther8 : runOn (.crclpOther8 0b000#3 (.single 0) 4000) (crc 8#8 [] 0 none) =
    answers (crc 0#8 [] 0 (some 200)) (.packet none) := by decide
theorem test_crclpOther16 : runOn (.crclpOther16 0b1111#4 (.single 0) 4000) (crc 31#8 [] 0 none) =
    answers (crc 0#8 [] 0 (some 200)) (.packet none) := by decide
theorem test_crclpOther32 : runOn (.crclpOther32 0b00000#5 (.single 0) 4000) (crc 32#8 [] 0 none) =
    answers (crc 0#8 [] 0 (some 200)) (.packet none) := by decide
theorem test_crclpOther64 : runOn (.crclpOther64 0b111111#6 (.single 0) 4000) (crc 127#8 [] 0 none) =
    answers (crc 0#8 [] 0 (some 200)) (.packet none) := by decide
theorem test_crclpOther128 : runOn (.crclpOther128 0b0000000#7 (.single 0) 4000) (crc 128#8 [] 0 none) =
    answers (crc 0#8 [] 0 (some 200)) (.packet none) := by decide

/-! ### The receivers and the arbiter -/

/-- V-RX2. -/
theorem test_recv_packet : (next? (exec (.recv 0) (block (frame52 ++ [3000]) (tagReset none) []))).map (fun t => (t.receivers, t.response)) =
    some ([{ src := { queue := [3000], arrivals := [] }, dec := tagReset (some 0) }],
      some { result := .packet (some [0x52#8]), events := [] }) := by decide
/-- SX4, third row: abort, then a good frame; the pulses arrive while the call runs. -/
theorem test_recv_recovers :
    (next? (exec (.recv 0) { one (tagReset none) with
        receivers := [{ src := { queue := [3000, 6000], arrivals := [[], [9000], [], frame52] }, dec := tagReset none }] })).map
      (fun t => (t.decoder? (.single 0), t.response)) =
    answers (tagReset (some 0)) (.packet (some [0x52#8])) := by decide

/-- Two sensors one pulse before the end of the frame of 0x52, and a silent one (P2, round 17). -/
def lastRound : List Sensor :=
  [sens [1000] (tag 16#8 1#3 0xA4#8 40 none) none, sens [1000] (tag 16#8 1#3 0xA4#8 10 none) none,
    sens [] (tagReset none) (some { margin := 3, strength := 1 })]

/-- P2, step 1. -/
theorem test_mrecv_arbitrates : (next? (exec (.mrecv 0) (block [] (tagReset none) lastRound))).map (fun t => (t.multis, t.response)) =
    some ([{ sensors := [sens [] (tagReset (some 40)) (some { margin := 40, strength := 1 }),
        sens [] (tagReset (some 10)) (some { margin := 10, strength := 1 }), sens [] (tagReset none) none] }],
      some { result := .packet (some [0x52#8]), events := [] }) := by decide +kernel
/-- V-RX9: the sensor that did not complete loses its packet; its LASTERR stays absent. -/
theorem test_mrecv_resets_all :
    (next? (exec (.mrecv 0) (block [] (tagReset none) [sens frame52 (tagReset none) none,
        sens [3000, 6000, 3000, 2000, 2000] (tagReset none) none]))).map (fun t => (t.multis, t.response)) =
    some ([{ sensors := [sens [] (tagReset (some 0)) (some { margin := 0, strength := 1 }), sens [] (tagReset none) none] }],
      some { result := .packet (some [0x52#8]), events := [] }) := by decide +kernel

/-- The snapshot of V-RX13. -/
def ranked : State :=
  block [] (tagReset none) [sens [] (tagReset none) (some { margin := 499, strength := 151 / 500 }), sens [] (tagReset none) none,
    sens [] (tagReset none) (some { margin := 250, strength := 4 / 5 })]

/-- V-RX13. -/
theorem test_qbest : (next? (exec (.qbest 0) ranked)).map State.response = some (some { result := .sensor (some 2), events := [] }) := by
  decide +kernel
/-- V-RX13. -/
theorem test_qrank : (next? (exec (.qrank 0) ranked)).map State.response = some (some { result := .ranking [2, 0], events := [] }) := by
  decide +kernel
/-- V-RX13. -/
theorem test_qwmar : (next? (exec (.qwmar 0) ranked)).map State.response = some (some { result := .margin (some 250), events := [] }) := by
  decide +kernel
/-- V-RX13. -/
theorem test_qwstr : (next? (exec (.qwstr 0) ranked)).map (fun t => t.response.map Response.result) = some (some (.strength (some (4 / 5)))) := by
  decide +kernel
/-- V-RX8: equal margins go to the lower index. -/
theorem test_tie_to_lower_index : (bestOf [none, some { margin := 25, strength := 1 }, some { margin := 25, strength := 1 }]).map Prod.fst = some 1 := by
  decide +kernel

/-! ### The transmitter, the reserved codes and the host port -/

/-- V-X3: one call, no retry. -/
theorem test_send_failure : (next? (exec (.send 0 (.byte 0x52#8) none) (one (tagReset none)))).map (fun t => (t.sinks, t.response)) =
    some ([{ handed := [frame52], answers := [] }, { handed := [], answers := [.success] }],
      some { result := .raised .sinkFailure, events := [] }) := by decide
/-- P7, step 4 with the byte of V-X5: the override is called, the default sink is not. -/
theorem test_send_override : (next? (exec (.send 0 (.byte 0xD2#8) (some 1)) (one (tagReset none)))).map (fun t => (t.sinks, t.response)) =
    some ([{ handed := [], answers := [.failure] }, { handed := [frame52], answers := [] }], some { result := .success, events := [] }) := by
  decide
/-- V-X4. -/
theorem test_send_unencodable : runOn (.send 1 (.bytes [0x52#8]) none) (tagReset none) = answers (tagReset none) (.raised .unencodable) := by
  decide
/-- R112: all 14 reserved codes. -/
theorem test_reserved : ∀ i ∈ [Instr.reserved0, .reserved6 0, .reserved6 1, .reserved14 0, .reserved14 1, .reserved22 0, .reserved22 1,
      .reserved25, .reserved26 0, .reserved26 1, .reserved28 0, .reserved28 1, .reserved28 2, .reserved28 3],
    refusal? (exec i (one (tagReset none))) = some (.reservedCode ((encode i).word.setWidth 5)) := by decide
/-- P7, step 2, through the host port. -/
theorem test_step_tgpk : (next? (step ((one (tagReset none)).issue (encode (.tgpk 2 8 4))))).map (fun t => (t.requests, t.response)) =
    some ([], some { result := .byte 0x5F#8, events := [] }) := by decide
/-- R112: an internal code at the host port. -/
theorem test_step_refuses_internal : refusal? (step ((one (tagReset none)).issue (encode (.wbit (.single 0) 1)))) =
    some (.internalCode .op 0b00000010#8) := by decide
/-- The port with `EXPOSE_UOPS = 1`. -/
theorem test_fetchWord_runs_match : (next? (step (State.reset.withFetchWord 8 0b00001))).map State.response =
    some (some { result := .flag true, events := [] }) := by decide

/-! ### Witnesses: for every statement with hypotheses, a state and operands that meet them, at boundary values of each clause -/

/-- Turns a decided fact about a decoder into the record of R29 to R31. -/
theorem tag_atRest (state : BitVec 8) (bitidx : BitVec 3) (curbyte : Byte) (maxerr : Nat) (lasterr : Option Nat)
    (h : curbyte.toNat % 2 ^ (bitidx.toNat + 1) = 0 ∧ maxerr < 500 ∧ (∀ m, lasterr = some m → m ≤ 500) ∧
      (state = 0#8 → curbyte = 0x00#8 ∧ bitidx = 7#3 ∧ maxerr = 0) ∧ state.toNat ≤ 16 ∧
      bitidx.toNat = 7 - (tag state bitidx curbyte maxerr lasterr).tagBits) : (tag state bitidx curbyte maxerr lasterr).AtRest where
  lowBitsClear := h.1
  maxerrBound := .inl h.2.1
  lasterrBound := h.2.2.1
  fresh := fun h0 => ⟨rfl, (h.2.2.2.1 h0).1, (h.2.2.2.1 h0).2.1, (h.2.2.2.1 h0).2.2⟩
  tag := fun _ => ⟨h.2.2.2.2.1, rfl, h.2.2.2.2.2, rfl⟩
  crclp := fun h0 => by cases h0

/-- A Tag decoder in its reset state is at rest. -/
theorem tagReset_atRest : (tagReset (some 500)).AtRest := tag_atRest _ _ _ _ _ ⟨by decide, by decide, by simp, by decide, by decide, by decide⟩

/-- A Tag decoder one pulse before the end of a packet is at rest. -/
theorem tagLast_atRest : (tag 16#8 1#3 0xFC#8 499 none).AtRest := tag_atRest _ _ _ _ _ ⟨by decide, by decide, by simp, by decide, by decide, by decide⟩

/-- A CRCLP decoder in its reset state is at rest. -/
theorem crcReset_atRest : (deco .crclp 500 0#8 [] 7#3 0x00#8 0 none).AtRest where
  lowBitsClear := by decide
  maxerrBound := by decide
  lasterrBound := by simp [deco]
  fresh := by decide
  tag := fun h => by cases h
  crclp := fun _ => by decide

/-- A small block at rest, with a snapshot entry and a request. -/
def restingBlock : State :=
  { block [9000] (tag 16#8 1#3 0xFC#8 499 none) [sens [] (tagReset (some 500)) (some { margin := 0, strength := 1 })] with
      requests := [encode (.recv 0), encode (.mrecv 0)] }

theorem restingBlock_atRest : restingBlock.AtRest where
  uopsHidden := rfl
  receivers := by intro x hx; simp only [restingBlock, block, List.mem_singleton] at hx; subst hx; exact tagLast_atRest
  multis := by
    intro u hu
    simp only [restingBlock, block, List.mem_singleton] at hu
    subst hu
    exact ⟨by simp, by simp, by simpa [sens] using tagReset_atRest, by simp [sens, Sensor.SnapSound, strengthOf, tagReset, tag, deco]⟩
  sinksWired := by decide

theorem witness_DecodeOfEncode : Instr.wellFormed (.tagOther128 0b1111111#7 (.sensor 9 9) 65535) = true ∧
    Instr.wellFormed (.drst (.single 0) none) = true := by decide
theorem witness_DecodedWordIsTheInstructionsOwn : decode (request .dataByte 0b01111111#8) = .ok (.tagByte 3#2 7#3 3#2) ∧
    decode (request .op 0b00011111#8) = .ok (.reserved28 3#2) := ⟨rfl, rfl⟩
theorem witness_ReservedAndInternalCodesAreRefused :
    ((one (tagReset none)).issue { format := .op, word := (0#5).setWidth 8, lines := lines }).requests =
        { format := .op, word := (0#5).setWidth 8, lines := lines } :: [] ∧ (0#5).toNat ∈ [0, 6, 7, 14, 15, 22, 23, 25, 26, 27, 28, 29, 30, 31] ∧
      (31#5).toNat ∈ [0, 6, 7, 14, 15, 22, 23, 25, 26, 27, 28, 29, 30, 31] ∧
      (one (tagReset none)).params.exposeUops = false ∧ (1#5).toNat ∈ [1, 2, 3, 8, 9, 12, 13] ∧ (13#5).toNat ∈ [1, 2, 3, 8, 9, 12, 13] := by decide
theorem witness_StepRunsTheOldestRequest :
    (restingBlock.requests = encode (.recv 0) :: [encode (.mrecv 0)] ∧ decode (encode (.recv 0)) = .ok (.recv 0) ∧
      Instr.internal (.recv 0) = false) ∧ (one (tagReset none)).requests = [] ∧
    (let s := (one (tagReset none)).present (encode (.tdec (.single 0) 3000))
     s.requests = encode (.tdec (.single 0) 3000) :: [] ∧ decode (encode (.tdec (.single 0) 3000)) = .ok (.tdec (.single 0) 3000) ∧
      s.params.exposeUops = true) := ⟨⟨rfl, rfl, rfl⟩, rfl, rfl, rfl, rfl⟩
theorem witness_UnfitOperandsAreRefused :
    (one (tagReset none)).decoder? (.single 1) = none ∧ Instr.writesDecoder (.tagS17 (.single 1) 0) = some (.single 1) ∧
    (one (tagReset none)).decoder? (.sensor 0 0) = none ∧ Instr.writesDecoder (.crclpOther128 0 (.sensor 0 0) 0) = some (.sensor 0 0) ∧
    (∃ x, (one (crc 2#8 [] 0 none)).decoder? (.single 0) = some x ∧ x.proto = .crclp ∧ x.state ≠ 0#8 ∧ x.state ≠ 3#8 ∧ x.state ≠ 255#8) ∧
    (∃ x, (one (tag 17#8 7#3 0x00#8 0 none)).decoder? (.single 0) = some x ∧ x.proto = .tag ∧ x.state ≠ 16#8 ∧ x.state ≠ 18#8 ∧
      x.state ≠ 255#8) ∧
    (one (tagReset none)).receivers[1]? = none ∧ (one (tagReset none)).multis[1]? = none ∧ (one (tagReset none)).transmitters[2]? = none ∧
    (∃ x : Transmitter, (one (tagReset none)).transmitters[0]? = some x ∧ x.proto = .tag ∧
      (one (tagReset none)).sinks[(some 2).getD x.sink]? = none) :=
  ⟨rfl, rfl, rfl, rfl, ⟨_, rfl, rfl, by decide, by decide, by decide⟩, ⟨_, rfl, rfl, by decide, by decide, by decide⟩, rfl, rfl, rfl, ⟨_, rfl, rfl, rfl⟩⟩
theorem witness_ResetIsCreation : (∃ x, State.reset.decoder? (.single 0) = some x ∧ x.proto = .tag) ∧
    (∃ x, State.reset.decoder? (.sensor 1 1) = some x) ∧ (∃ snap ∈ State.reset.snapshots, ∃ e, e ∈ snap) :=
  ⟨⟨_, rfl, rfl⟩, ⟨_, rfl⟩, ⟨_, List.mem_cons_self, none, by decide⟩⟩
theorem witness_EveryStepKeepsTheBlockAtRest : restingBlock.AtRest ∧ ∃ t, step restingBlock = .next t := ⟨restingBlock_atRest, _, rfl⟩
theorem witness_EveryStepKeepsTheConfiguration : ∃ t, step restingBlock = .next t := ⟨_, rfl⟩
theorem witness_OnlyMrecvWritesSnapshots : (∀ m, Instr.recv 0 ≠ .mrecv m) ∧ ∃ t, exec (.recv 0) restingBlock = .next t :=
  ⟨fun _ => by simp, _, rfl⟩
theorem witness_LasterrStaysValid : restingBlock.params.exposeUops = false ∧
    ∃ t x y, step restingBlock = .next t ∧ restingBlock.decoder? (.sensor 0 0) = some x ∧ t.decoder? (.sensor 0 0) = some y ∧
      x.lasterr.isSome = true := ⟨rfl, _, _, _, rfl, rfl, rfl, rfl⟩
theorem witness_DecoderOperationsFrame : Instr.writesDecoder (.tagS16 (.single 0) 65535) = some (.single 0) ∧
    ∃ t, exec (.tagS16 (.single 0) 65535) restingBlock = .next t := ⟨rfl, _, rfl⟩

/-- The hypothesis of the engine's statements: MATCH, WBIT, DRST, RDLEM and the window. -/
theorem witness_MatchTracksTheWorstDeviation : (one (tagReset none)).decoder? (.single 0) = some (tagReset none) := rfl
theorem witness_MatchBoundaryIsStrict : (one (deco .tag 1 0#8 [] 7#3 0x00#8 0 none)).decoder? (.single 0) = some (deco .tag 1 0#8 [] 7#3 0x00#8 0 none) ∧
    1 ≤ (deco .tag 1 0#8 [] 7#3 0x00#8 0 none).eth ∧ (deco .tag 1 0#8 [] 7#3 0x00#8 0 none).eth - 1 ≤ 0 ∧
    (deco .tag 1 0#8 [] 7#3 0x00#8 0 none).eth ≤ 1 ∧
    (deco .tag 1 0#8 [] 7#3 0x00#8 0 none).maxerr ≤ (deco .tag 1 0#8 [] 7#3 0x00#8 0 none).eth - 1 := by decide
theorem witness_MatchWindow : (one (deco .tag 0 0#8 [] 7#3 0x00#8 0 none)).decoder? (.single 0) = some (deco .tag 0 0#8 [] 7#3 0x00#8 0 none) := rfl
theorem witness_WbitWritesMostSignificantFirst :
    (one (tag 0#8 0#3 0xA4#8 0 none)).decoder? (.single 0) = some (tag 0#8 0#3 0xA4#8 0 none) ∧ (tag 0#8 0#3 0xA4#8 0 none).bitidx = 0#3 ∧
    (one (tag 0#8 7#3 0x00#8 0 none)).decoder? (.single 0) = some (tag 0#8 7#3 0x00#8 0 none) ∧ (tag 0#8 7#3 0x00#8 0 none).bitidx ≠ 0#3 := by decide
theorem witness_EightWbitsAppendTheByte : (tagReset none).bitidx = 7#3 ∧ (tagReset none).curbyte = 0x00#8 := ⟨rfl, rfl⟩
theorem witness_DrstResetsEverythingButTheConfiguration :
    (one (tag 9#8 4#3 0xA0#8 40 (some 7))).decoder? (.single 0) = some (tag 9#8 4#3 0xA0#8 40 (some 7)) := rfl
theorem witness_RdlemReturnsLasterr : (one (tagReset none)).decoder? (.single 0) = some (tagReset none) := rfl
theorem witness_RdstrFollowsTheFormula :
    (∃ x, (one (tagReset none)).decoder? (.single 0) = some x ∧ x.lasterr = none) ∧
    (∃ x, (one (tagReset (some 0))).decoder? (.single 0) = some x ∧ x.lasterr = some 0) ∧
    (∃ x, (one (tagReset (some 1))).decoder? (.single 0) = some x ∧ x.lasterr = some 1 ∧ x.eth ≠ 0) :=
  ⟨⟨_, rfl, rfl⟩, ⟨_, rfl, rfl⟩, ⟨_, rfl, rfl, by decide⟩⟩
theorem witness_RdstrCompletesUnderThresholdZero :
    ∃ x, (one (deco .crclp 0 0#8 [] 7#3 0x00#8 0 (some 1))).decoder? (.single 0) = some x ∧ x.lasterr = some 1 ∧ 1 ≠ 0 ∧ x.eth = 0 :=
  ⟨_, rfl, rfl, by decide, rfl⟩
theorem witness_StrengthIsPiecewiseLinear : 1 ≤ 500 ∧ 10 * 150 ≤ 3 * 500 ∧ (3 * 500 < 10 * 151 ∧ 10 * 649 < 13 * 500) ∧ 13 * 500 ≤ 10 * 650 ∧
    500 ≤ 500 := by decide

/-- A Tag decoder in each state of the map. -/
theorem witness_TagStates : ∀ n ∈ [0#8, 1#8, 2#8, 3#8, 4#8, 5#8, 6#8, 7#8, 8#8, 9#8, 10#8, 11#8, 12#8, 13#8, 14#8, 15#8, 16#8, 17#8, 18#8, 255#8],
    ∃ x, (one (tag n 7#3 0x00#8 0 none)).decoder? (.single 0) = some x ∧ x.proto = .tag ∧ x.state = n := fun _ _ => ⟨_, rfl, rfl, rfl⟩
theorem witness_TdecRunsTheRowOfItsState : ∃ x, (one (tag 16#8 1#3 0xA4#8 7 none)).decoder? (.single 0) = some x ∧ x.proto = .tag := ⟨_, rfl, rfl⟩
/-- Both branches of a preamble state: the deviation 499 is below the threshold, 500 is not. -/
theorem witness_TagPreambleStates : ∃ x, (one (tag 1#8 7#3 0x00#8 0 none)).decoder? (.single 0) = some x ∧ x.proto = .tag ∧ x.state = 1#8 ∧
    deviation 6499 6000 < x.eth ∧ ¬ deviation 6500 6000 < x.eth := ⟨_, rfl, rfl, rfl, by decide, by decide⟩
theorem witness_TagDataMarkStates : ∃ x, (one (tag 15#8 1#3 0xA4#8 0 none)).decoder? (.single 0) = some x ∧ x.proto = .tag ∧ x.state = 15#8 ∧
    deviation 1501 2000 < x.eth ∧ ¬ deviation 1500 2000 < x.eth := ⟨_, rfl, rfl, rfl, by decide, by decide⟩
/-- The three branches of a data space state: 1501 is a one, 1499 a zero, 1500 neither. -/
theorem witness_TagDataSpaceStates : ∃ x, (one (tag 4#8 7#3 0x00#8 0 none)).decoder? (.single 0) = some x ∧ x.proto = .tag ∧ x.state = 4#8 ∧
    deviation 1501 2000 < x.eth ∧ (¬ deviation 1499 2000 < x.eth ∧ deviation 1499 1000 < x.eth) ∧
    (¬ deviation 1500 2000 < x.eth ∧ ¬ deviation 1500 1000 < x.eth) := ⟨_, rfl, rfl, rfl, by decide, by decide, by decide⟩
theorem witness_TagLastSpaceCompletesThePacket : ∃ x, (one (tag 16#8 1#3 0xFC#8 499 none)).decoder? (.single 0) = some x ∧ x.proto = .tag ∧
    x.state = 16#8 ∧ x.AtRest ∧ deviation 2499 2000 < x.eth ∧ (¬ deviation 501 2000 < x.eth ∧ deviation 501 1000 < x.eth) ∧
    (¬ deviation 500 2000 < x.eth ∧ ¬ deviation 500 1000 < x.eth) :=
  ⟨_, rfl, rfl, rfl, tagLast_atRest, by decide, by decide, by decide⟩
theorem witness_TagPulseInCompletionState :
    (∃ x, (one (tag 17#8 7#3 0x00#8 0 none)).decoder? (.single 0) = some x ∧ x.proto = .tag ∧ x.state = 17#8 ∧ (x.wbit 0#1).rbytes = []) ∧
    (∃ x b bs, (one (tag 17#8 0#3 0xA4#8 0 none)).decoder? (.single 0) = some x ∧ x.proto = .tag ∧ x.state = 17#8 ∧
      (x.wbit 0#1).rbytes = b :: bs) := ⟨⟨_, rfl, rfl, rfl, rfl⟩, ⟨_, _, _, rfl, rfl, rfl, rfl⟩⟩
theorem witness_TagOtherStatesAbort : ∃ x y : Decoder, (one (tag 18#8 7#3 0x00#8 0 none)).decoder? (.single 0) = some x ∧ x.proto = .tag ∧
    18 ≤ x.state.toNat ∧ x.state = 0b0001001#7 ++ 0b0#1 ∧ y = tag 255#8 7#3 0x00#8 0 none ∧ y.state = 0b1#1 ++ 0b1111111#7 ∧
    (tag 20#8 7#3 0x00#8 0 none).state = 0b000101#6 ++ 0b00#2 ∧ (tag 24#8 7#3 0x00#8 0 none).state = 0b00011#5 ++ 0b000#3 ∧
    (tag 32#8 7#3 0x00#8 0 none).state = 0b001#3 ++ 0b00000#5 ∧ (tag 64#8 7#3 0x00#8 0 none).state = 0b01#2 ++ 0b000000#6 :=
  ⟨_, _, rfl, rfl, by decide, rfl, rfl, rfl, rfl, rfl, rfl, rfl⟩
/-- A packet by each of the three ways: state 17, a last space of bit 1 and one of bit 0; and a step without a packet. -/
theorem witness_TdecPacketsAreOneSevenBitByte :
    (∃ x, (one (tag 17#8 0#3 0xFE#8 3 none)).decoder? (.single 0) = some x ∧ x.proto = .tag ∧ (x.tdec 0).packet = some [0x7F#8]) ∧
    (∃ x, (one (tag 16#8 1#3 0xFC#8 499 none)).decoder? (.single 0) = some x ∧ x.proto = .tag ∧ (x.tdec 1501).packet = some [0x7F#8]) ∧
    (∃ x, (one (tag 16#8 1#3 0xFC#8 499 none)).decoder? (.single 0) = some x ∧ x.proto = .tag ∧ (x.tdec 1499).packet = some [0x7E#8]) ∧
    (∃ x, (one (tag 16#8 1#3 0xFC#8 499 none)).decoder? (.single 0) = some x ∧ x.proto = .tag ∧ (x.tdec 1500).packet = none) :=
  ⟨⟨_, rfl, rfl, rfl⟩, ⟨_, rfl, rfl, rfl⟩, ⟨_, rfl, rfl, rfl⟩, ⟨_, rfl, rfl, rfl⟩⟩
theorem witness_TagCodecRoundTrips : TagData.legal { team := 3, player := 8, damage := 4 } = true ∧
    TagData.legal { team := 0, player := 1, damage := 1 } = true := by decide
/-- The trace of R175: 17 pulses inside their windows, the worst of them 499 away. -/
theorem witness_TagFrameWithinTheWindowsDecodes : (tagReset (some 500)).AtRest ∧ (tagReset (some 500)).proto = .tag ∧
    (tagReset (some 500)).state = 0#8 ∧ Near (tagReset (some 500)).eth
      [3012, 5960, 3007, 1997, 2025, 2000, 501, 2100, 1900, 2033, 1001, 1999, 1060, 1940, 2005, 2499, 750] (tagEncode 0x52#8) :=
  ⟨tagReset_atRest, rfl, rfl, by
    have e : tagEncode 0x52#8 = frame52 := by decide
    rw [e]; simp only [Near, List.forall₂_cons, List.forall₂_nil_left_iff, frame52]; decide⟩

theorem witness_CrclpSeekState : ∃ x, (one (crc 0#8 [] 0 none)).decoder? (.single 0) = some x ∧ x.proto = .crclp ∧ x.state = 0#8 ∧
    deviation 4199 4000 < x.eth ∧ ¬ deviation 4200 4000 < x.eth := ⟨_, rfl, rfl, rfl, by decide, by decide⟩
theorem witness_CrclpHeaderState : ∃ x, (one (crc 1#8 [] 0 none)).decoder? (.single 0) = some x ∧ x.proto = .crclp ∧ x.state = 1#8 ∧
    deviation 2801 3000 < x.eth ∧ ¬ deviation 2800 3000 < x.eth := ⟨_, rfl, rfl, rfl, by decide, by decide⟩
theorem witness_CrclpBitPulses : ∃ x, (one (crc 2#8 [] 0 none)).decoder? (.single 0) = some x ∧ x.proto = .crclp ∧ x.state = 2#8 ∧
    (¬ deviation 1699 5000 < x.eth ∧ deviation 1699 1500 < x.eth) ∧
    (¬ deviation 301 5000 < x.eth ∧ ¬ deviation 301 1500 < x.eth ∧ deviation 301 500 < x.eth) ∧
    (¬ deviation 300 5000 < x.eth ∧ ¬ deviation 300 1500 < x.eth ∧ ¬ deviation 300 500 < x.eth) :=
  ⟨_, rfl, rfl, rfl, by decide, by decide, by decide⟩
theorem witness_CrclpLeadOut :
    (∃ x, (one (crc 2#8 [0x52#8] 0 none)).decoder? (.single 0) = some x ∧ x.proto = .crclp ∧ x.state = 2#8 ∧ deviation 4801 5000 < x.eth ∧
      x.rbytes.length < 2) ∧
    (∃ x payload rx, (one (crc 2#8 [0x52#8, 0xE4#8] 0 none)).decoder? (.single 0) = some x ∧ x.proto = .crclp ∧ x.state = 2#8 ∧
      deviation 5199 5000 < x.eth ∧ x.rbytes = payload ++ [rx] ∧ payload ≠ []) :=
  ⟨⟨_, rfl, rfl, rfl, by decide, by decide⟩, ⟨_, [0x52#8], 0xE4#8, rfl, rfl, rfl, by decide, rfl, by decide⟩⟩
theorem witness_CrclpOtherStatesAbort : ∃ x y : Decoder, (one (crc 3#8 [] 0 none)).decoder? (.single 0) = some x ∧ x.proto = .crclp ∧
    3 ≤ x.state.toNat ∧ x.state = 3#8 ∧ y = crc 4#8 [] 0 none ∧ y.state = 0b000001#6 ++ 0b00#2 ∧
    (crc 15#8 [] 0 none).state = 0b00001#5 ++ 0b111#3 ∧ (crc 16#8 [] 0 none).state = 0b0001#4 ++ 0b0000#4 ∧
    (crc 32#8 [] 0 none).state = 0b001#3 ++ 0b00000#5 ∧ (crc 64#8 [] 0 none).state = 0b01#2 ++ 0b000000#6 ∧
    (crc 255#8 [] 0 none).state = 0b1#1 ++ 0b1111111#7 := ⟨_, _, rfl, rfl, by decide, rfl, rfl, rfl, rfl, rfl, rfl, rfl, rfl⟩
theorem witness_CrcDetectsOneByteErrors : (0x52#8) ≠ 0x53#8 := by decide
/-- V-CR1's frame under the widest threshold of the statement. -/
theorem witness_CrclpFrameWithinTheWindowsDecodes : ∃ x : Decoder, x = deco .crclp 500 0#8 [] 7#3 0x00#8 0 none ∧ x.AtRest ∧ x.proto = .crclp ∧
    x.state = 0#8 ∧ x.eth ≤ 500 ∧ [0x52#8] ≠ [] ∧ Near x.eth
      [4499, 3000, 999, 1500, 500, 1500, 500, 500, 1500, 500, 1001, 1500, 1500, 500, 500, 1500, 500, 1, 4501] (crclpFrame ([0x52#8] ++ [0xE4#8])) :=
  ⟨_, rfl, crcReset_atRest, rfl, rfl, by decide, by decide, by
    have e : crclpFrame ([0x52#8] ++ [0xE4#8]) =
      [4000, 3000, 500, 1500, 500, 1500, 500, 500, 1500, 500, 1500, 1500, 1500, 500, 500, 1500, 500, 500, 5000] := by decide
    rw [e]; simp only [Near, List.forall₂_cons, List.forall₂_nil_left_iff]; decide⟩

/-- A receiver whose source still has one pulse, in the middle of a packet. -/
theorem witness_RecvFollowsItsLoop :
    (∃ x src', (one (tagReset none)).receivers[0]? = some x ∧ x.src.nextPulse = (none, src')) ∧
    (∃ x p src' k, (block [2000] (tag 16#8 1#3 0xFC#8 0 none) []).receivers[0]? = some x ∧ x.src.nextPulse = (some p, src') ∧
      (x.dec.step params p).packet = some k) ∧
    (∃ x p src', (block [3000] (tagReset none) []).receivers[0]? = some x ∧ x.src.nextPulse = (some p, src') ∧
      (x.dec.step params p).packet = none ∧
      ∃ t z, exec (.recv 0) { block [3000] (tagReset none) [] with
        receivers := [⟨src', (x.dec.step params p).dec⟩] } = .next t ∧
        t.response = some z) :=
  ⟨⟨_, _, rfl, rfl⟩, ⟨_, _, _, _, rfl, rfl, rfl⟩, ⟨_, _, _, rfl, rfl, rfl, _, _, rfl, rfl⟩⟩
theorem witness_RecvDrainsItsSourceOrReturns : ∃ t z y, exec (.recv 0) (block [3000] (tagReset none) []) = .next t ∧ t.response = some z ∧
    z.result = .packet none ∧ t.receivers[0]? = some y := ⟨_, _, _, rfl, rfl, rfl, rfl⟩
theorem witness_RecvReturnsTheQueuedFrame : ∃ x : Receiver, (block (tagEncode 0xFF#8 ++ [3000]) (tagReset (some 500)) []).receivers[0]? = some x ∧
    x.dec.AtRest ∧ x.dec.proto = .tag ∧ x.dec.state = 0#8 ∧ x.src = { queue := tagEncode 0xFF#8 ++ [3000], arrivals := [] } :=
  ⟨_, rfl, tagReset_atRest, rfl, rfl, rfl⟩
/-- The two clauses of a round without a packet: nothing pulled; a pulse pulled and another round run. -/
theorem witness_MrecvFollowsItsRounds :
    (∃ u, (block [] (tagReset none) [sens [] (tagReset none) none]).multis[0]? = some u ∧
      (∀ q ∈ u.sensors.map (Sensor.pull params), q.packet = none) ∧
      (∀ q ∈ u.sensors.map (Sensor.pull params), q.got = false)) ∧
    (∃ u, (block [] (tagReset none) [sens [3000] (tagReset none) none]).multis[0]? = some u ∧
      (∀ q ∈ u.sensors.map (Sensor.pull params), q.packet = none) ∧
      (∃ q ∈ u.sensors.map (Sensor.pull params), q.got = true) ∧
      ∃ t z, exec (.mrecv 0) (block [] (tagReset none)
        (u.sensors.map fun x => (x.pull params).sensor)) = .next t ∧ t.response = some z) ∧
    (∃ src', (sens [] (tagReset none) none).src.nextPulse = (none, src')) ∧
    (∃ p src', (sens [3000] (tagReset none) none).src.nextPulse = (some p, src')) :=
  ⟨⟨_, rfl, by decide, by decide⟩, ⟨_, rfl, by decide, by decide, _, _, rfl, rfl⟩, ⟨_, rfl⟩, ⟨_, _, rfl⟩⟩
/-- A sensor two pulses before the end of the frame of 0x52, and one that is at its first pulse. -/
def twoRounds : List Sensor :=
  [sens [2000, 1000] (tag 15#8 1#3 0xA4#8 0 none) none, sens [3000] (tagReset none) none]

/-- P2's last round: two sensors complete, one is silent. -/
theorem witness_CompletingRoundArbitrates : ∃ u : Multi, (block [] (tagReset none) lastRound).multis[0]? = some u ∧
    (∃ x ∈ u.sensors, (x.pull params).packet.isSome = true) ∧
    (∃ x ∈ u.sensors, (x.pull params).packet = none) :=
  ⟨_, rfl, by decide, by decide⟩
/-- The silent sensor between the two that complete; its calls find twice that nothing has landed. -/
theorem witness_SilentSensorNeverAffectsArbitration :
    (block [] (tagReset none) lastRound).multis[0]? = some { sensors := lastRound.take 1 ++ lastRound.drop 1 } ∧
    ({ src := { queue := [], arrivals := [[], []] }, dec := tagReset none, snap := none } : Sensor).silent ∧
    ∃ t, exec (.mrecv 0) (block [] (tagReset none) lastRound) = .next t := ⟨rfl, ⟨rfl, by decide⟩, _, rfl⟩
theorem witness_MrecvFrame : ∃ t, exec (.mrecv 0) (block [] (tagReset none) lastRound) = .next t := ⟨_, rfl⟩
/-- Both clauses: no entry present; the lowest margin at index 2. -/
theorem witness_QbestIsTheLowestMargin :
    (∃ u : Multi, (block [] (tagReset none) [sens [] (tagReset none) none]).multis[0]? = some u ∧ ∀ x ∈ u.sensors, x.snap = none) ∧
    (∃ u xw e, ranked.multis[0]? = some u ∧ u.sensors[2]? = some xw ∧ xw.snap = some e ∧
      ∀ i x f, u.sensors[i]? = some x → x.snap = some f → e.margin ≤ f.margin ∧ (i < 2 → e.margin < f.margin)) := by
  refine ⟨⟨_, rfl, by decide +kernel⟩, ⟨_, _, _, rfl, rfl, rfl, ?_⟩⟩
  intro i x f hx hf
  rcases i with _ | _ | _ | i
  · simp only [List.getElem?_cons_zero, Option.some.injEq] at hx; subst hx; cases hf; decide
  · simp only [List.getElem?_cons_succ, List.getElem?_cons_zero, Option.some.injEq] at hx; subst hx; cases hf
  · simp only [List.getElem?_cons_succ, List.getElem?_cons_zero, Option.some.injEq] at hx; subst hx; cases hf; decide
  · simp at hx
theorem witness_QrankIsSortedByMargin : ∃ u, ranked.multis[0]? = some u := ⟨_, rfl⟩
theorem witness_QwmarAndQwstrReadTheBestEntry : (∃ u, ranked.multis[0]? = some u) ∧
    exec (.qbest 0) ranked = .next (ranked.respond (.sensor (some 2)) []) ∧
    exec (.qbest 0) (block [] (tagReset none) []) = .next ((block [] (tagReset none) []).respond (.sensor none) []) := ⟨⟨_, rfl⟩, rfl, rfl⟩
/-- Sensor 0 completes in the second round; in the first nothing does. -/
theorem witness_QbestNamesTheReturnedSensor : ∃ u t z, (block [] (tagReset none) twoRounds).multis[0]? = some u ∧
    (∀ x ∈ u.sensors, (x.pull params).packet = none) ∧ exec (.mrecv 0) (block [] (tagReset none) twoRounds) = .next t ∧
    t.response = some z ∧ z.result = .packet (some [0x52#8]) := ⟨_, _, _, rfl, by decide, rfl, rfl, by decide +kernel⟩
theorem witness_SendMakesOneSinkCall : ∃ x snk snk1, (one (tagReset none)).transmitters[0]? = some x ∧ x.proto = .tag ∧
    (one (tagReset none)).sinks[none.getD x.sink]? = some snk ∧ snk.answers = .failure :: [] ∧
    (one (tagReset none)).sinks[(some 1).getD x.sink]? = some snk1 ∧ snk1.answers = .success :: [] := ⟨_, _, _, rfl, rfl, rfl, rfl, rfl, rfl⟩
theorem witness_SendOnCrclpIsUnencodable : ∃ x, (one (tagReset none)).transmitters[1]? = some x ∧ x.proto = .crclp := ⟨_, rfl, rfl⟩

end Sys2Proof.Tests
end

/-! ### The host port: what it admits, what it refuses (R110, R112) -/

namespace Sys2Proof

/-- A 5-bit select code in the low bits of a word of format OP is read back as itself, so the word always decodes. -/
theorem decode_opRequest (code : BitVec 5) (l : Lines) : decode (opRequest code l) = .ok (decodeOp code l) := by
  have high : (code.setWidth 8).extractLsb' 5 3 = 0#3 := by
    revert code; decide
  have low : (code.setWidth 8).extractLsb' 0 5 = code := by
    revert code; decide
  simp [decode, opRequest, high, low]

/-- The 14 reserved select codes (R112). -/
def reservedCodes : List Nat := [0, 6, 7, 14, 15, 22, 23, 25, 26, 27, 28, 29, 30, 31]

/-- The select codes of the operations that R110 marks internal. -/
def internalCodes : List Nat := [1, 2, 3, 8, 9, 12, 13]

/-- The reserved select code that an instruction stands for, if it is a RESERVED row. -/
def Instr.reservedCode? : Instr → Option (BitVec 5)
  | .reserved0 => some 0b00000#5
  | .reserved6 x => some (0b0011#4 ++ x)
  | .reserved14 x => some (0b0111#4 ++ x)
  | .reserved22 x => some (0b1011#4 ++ x)
  | .reserved25 => some 0b11001#5
  | .reserved26 x => some (0b1101#4 ++ x)
  | .reserved28 x => some (0b111#3 ++ x)
  | _ => none

/-- The host port reaches the RESERVED rows, so that they refuse by their own name. -/
theorem internal_of_reservedCode? {i : Instr} {code : BitVec 5} (h : i.reservedCode? = some code) : i.internal = false := by
  cases i
  case reserved0 | reserved6 | reserved14 | reserved22 | reserved25 | reserved26 | reserved28 => rfl
  all_goals cases h

theorem decodeOp_reservedCode? {code : BitVec 5} (l : Lines) (h : code.toNat ∈ reservedCodes) :
    (decodeOp code l).reservedCode? = some code := by
  have rows : ∀ k ∈ reservedCodes, (decodeOp (BitVec.ofNat 5 k) l).reservedCode? = some (BitVec.ofNat 5 k) := by
    simp [reservedCodes, decodeOp, Instr.reservedCode?]
  simpa using rows code.toNat h

theorem decodeOp_internal {code : BitVec 5} (l : Lines) (h : code.toNat ∈ internalCodes) : (decodeOp code l).internal = true := by
  have rows : ∀ k ∈ internalCodes, (decodeOp (BitVec.ofNat 5 k) l).internal = true := by
    simp [internalCodes, decodeOp, Instr.internal]
  simpa using rows code.toNat h

end Sys2Proof

namespace Sys2Proof.Machine

/-- A RESERVED row is refused by its own code in every state. -/
theorem exec_of_reservedCode? {i : Instr} {code : BitVec 5} (h : i.reservedCode? = some code) (s : State) :
    exec i s = .refused (.reservedCode code) := by
  cases i
  case reserved0 | reserved6 | reserved14 | reserved22 | reserved25 | reserved26 | reserved28 => cases h; rfl
  all_goals cases h

theorem admitRequest_of_reachable {c : Params} {r : Request} {i : Instr} (hd : decode r = .ok i)
    (hi : i.internal = false ∨ c.exposeUops = true) : admitRequest c r = .ok i := by
  obtain hi | hi := hi <;> simp [admitRequest, hd, hi]

theorem admitRequest_of_internal {c : Params} {r : Request} {i : Instr} (hd : decode r = .ok i)
    (hi : i.internal = true) (hc : c.exposeUops = false) : admitRequest c r = .error (.internalCode r.format r.word) := by
  simp [admitRequest, hd, hi, hc]

/-- A step executes the oldest request, once admitted, on the state without it. -/
theorem step_of_admitted {s : State} {r : Request} {rest : List Request} {i : Instr} (hr : s.requests = r :: rest)
    (ha : admitRequest s.params r = .ok i) : step s = exec i { s with requests := rest } := by
  simp [step, State.fetch, hr, ha]

theorem step_of_not_admitted {s : State} {r : Request} {rest : List Request} {e : Refusal} (hr : s.requests = r :: rest)
    (ha : admitRequest s.params r = .error e) : step s = .refused e := by
  simp [step, State.fetch, hr, ha]

/-- A reserved code at the port passes it and is refused as its RESERVED row, whatever `EXPOSE_UOPS` is (R112). -/
theorem step_of_reserved {s : State} {l : Lines} {rest : List Request} {code : BitVec 5} (hr : s.requests = opRequest code l :: rest)
    (h : code.toNat ∈ reservedCodes) : step s = .refused (.reservedCode code) := by
  have row := decodeOp_reservedCode? l h
  have admitted : admitRequest s.params (opRequest code l) = .ok (decodeOp code l) :=
    admitRequest_of_reachable (decode_opRequest code l) (.inl (internal_of_reservedCode? row))
  rw [step_of_admitted hr admitted, exec_of_reservedCode? row]

/-- An internal code is refused at the port itself while `EXPOSE_UOPS` is 0 (R112). -/
theorem step_of_internal {s : State} {l : Lines} {rest : List Request} {code : BitVec 5} (hr : s.requests = opRequest code l :: rest)
    (hs : s.params.exposeUops = false) (h : code.toNat ∈ internalCodes) : step s = .refused (.internalCode .op (code.setWidth 8)) :=
  step_of_not_admitted hr (admitRequest_of_internal (decode_opRequest code l) (decodeOp_internal l h) hs)

/-- Settles O5: a RESERVED row is refused by `exec`, an internal code by the port. -/
theorem reservedAndInternalCodesAreRefused : Obligations.ReservedAndInternalCodesAreRefused := by
  unfold Obligations.ReservedAndInternalCodesAreRefused
  refine ⟨fun s => ⟨?_, ?_⟩, fun s x => ⟨?_, ?_, ?_, ?_⟩, fun s x => ?_, ?reservedAtPort, ?internalAtPort⟩
  case reservedAtPort => exact fun _ _ _ _ hr h => step_of_reserved hr h
  case internalAtPort => exact fun _ _ _ _ hr hs h => step_of_internal hr hs h
  all_goals exact exec_of_reservedCode? rfl s

end Sys2Proof.Machine

/-! ### The decoder engine: MATCH, WBIT, DRST, RDLEM, RDSTR (R130 to R136) -/

namespace Sys2Proof

/-- An operation of format OP carries the select code it is encoded with (R110). -/
theorem Instr.hasCode_of_encode {i : Instr} {code : BitVec 5} {l : Lines} {internal : Bool} (he : encode i = opRequest code l)
    (hi : i.internal = internal) : i.HasCode code internal := by
  refine ⟨?_, ?_, hi⟩ <;> rw [he] <;> rfl

end Sys2Proof

namespace Sys2Proof.Machine

/-! #### The deviation of a pulse from the durations around it (R14) -/

theorem deviation_add_self (e k : Nat) : deviation (e + k) e = k := by
  unfold deviation; omega

theorem deviation_sub_self {e k : Nat} (h : k ≤ e) : deviation (e - k) e = k := by
  unfold deviation; omega

/-! #### What each engine operation does on a decoder that is there -/

section
variable {s : State} {d : DecRef} {x : Decoder} (h : s.decoder? d = some x)
include h

theorem exec_matchOp (o e : Pulse) :
    exec (.matchOp d o e) s = .next ((s.setDecoder d (x.matchPulse o e).1).respond (.flag (x.matchPulse o e).2) []) :=
  onDecoder_some _ h

theorem exec_wbit (b : BitVec 1) : exec (.wbit d b) s = .next ((s.setDecoder d (x.wbit b)).respond .unit []) :=
  onDecoder_some _ h

theorem exec_drst (m : Option Pulse) : exec (.drst d m) s = .next ((s.setDecoder d (x.drst m)).respond .unit []) :=
  onDecoder_some _ h

theorem exec_rdlem : exec (.rdlem d) s = .next (s.respond (.margin x.lasterr) []) :=
  onDecoder_some _ h

theorem exec_rdstr : exec (.rdstr d) s = .next (s.respond (.strength x.strength) []) :=
  onDecoder_some _ h

/-- A pulse inside the window: `MAXERR` takes the deviation in, and nothing else is written. -/
theorem exec_matchOp_hit {o e : Pulse} (hit : deviation o e < x.eth) :
    exec (.matchOp d o e) s =
      .next ((s.setDecoder d { x with maxerr := max x.maxerr (deviation o e) }).respond (.flag true) []) := by
  rw [exec_matchOp h, x.matchPulse_hit o e hit]

/-- A pulse outside the window: only the answer is written. -/
theorem exec_matchOp_miss {o e : Pulse} (miss : ¬ deviation o e < x.eth) :
    exec (.matchOp d o e) s = .next (s.respond (.flag false) []) := by
  rw [exec_matchOp h, x.matchPulse_miss o e miss, s.setDecoder_self d x h]

/-- MATCH completes on every decoder, and answers whether the deviation is strictly below the threshold. -/
theorem exec_matchOp_response (o e : Pulse) :
    ∃ t, exec (.matchOp d o e) s = .next t ∧
      t.response = some { result := .flag (decide (deviation o e < x.eth)), events := [] } := by
  by_cases hit : deviation o e < x.eth
  · exact ⟨_, exec_matchOp_hit h hit, by simp [hit]⟩
  · exact ⟨_, exec_matchOp_miss h hit, by simp [hit]⟩

end

/-- MATCH takes in only deviations below the threshold, so `MAXERR` stays below it (R131). -/
theorem Decoder.matchPulse_maxerr_lt {x : Decoder} (h : x.maxerr < x.eth) (o e : Pulse) : (x.matchPulse o e).1.maxerr < x.eth := by
  obtain ⟨hit, hx⟩ | ⟨-, hx⟩ := x.matchPulse_cases o e <;> rw [hx]
  · exact max_lt h hit
  · exact h

/-! #### The strength of a decoder, by its recorded margin (R136) -/

theorem strengthOf_zero (eth : Nat) : strengthOf eth 0 = 1 := rfl

/-- A nonzero margin under a threshold that divides: the clamped formula. -/
theorem strengthOf_formula {eth v : Nat} (hv : v ≠ 0) (he : eth ≠ 0) :
    strengthOf eth v = max 0 (min 1 (13 / 10 - (v : Rat) / (eth : Rat))) := by
  simp [strengthOf, hv, clamp, marginRatio, he, Config.strengthOffset]

theorem Decoder.strength_none {x : Decoder} (h : x.lasterr = none) : x.strength = none := by
  simp [Decoder.strength, h]

theorem Decoder.strength_some {x : Decoder} {v : Nat} (h : x.lasterr = some v) : x.strength = some (strengthOf x.eth v) := by
  simp [Decoder.strength, h]

/-! #### The statements -/

/-- Settles O15: the two branches of MATCH are the two branches of the statement. -/
theorem matchTracksTheWorstDeviation : Obligations.MatchTracksTheWorstDeviation := by
  unfold Obligations.MatchTracksTheWorstDeviation
  intro s d x o e h
  refine ⟨Instr.hasCode_of_encode rfl rfl, ?_⟩
  split
  next hit => exact exec_matchOp_hit h hit
  next miss => exact exec_matchOp_miss h miss

/-- Settles O16: at the four boundary pulses the deviation is `ETH - 1` or `ETH`, and MATCH answers by comparing it with `ETH`. -/
theorem matchBoundaryIsStrict : Obligations.MatchBoundaryIsStrict := by
  unfold Obligations.MatchBoundaryIsStrict
  intro s d x e h heth
  have below : x.eth - 1 < x.eth := by omega
  refine ⟨?aboveInside, fun hk => ?belowInside, ?aboveOutside, fun hk => ?belowOutside, fun hmax o => ?bound⟩
  case aboveInside => simpa [deviation_add_self, below] using exec_matchOp_response h (e + (x.eth - 1)) e
  case belowInside => simpa [deviation_sub_self hk, below] using exec_matchOp_response h (e - (x.eth - 1)) e
  case aboveOutside => simpa [deviation_add_self] using exec_matchOp_response h (e + x.eth) e
  case belowOutside => simpa [deviation_sub_self hk] using exec_matchOp_response h (e - x.eth) e
  case bound =>
    have kept := Decoder.matchPulse_maxerr_lt (x := x) (by omega) o e
    refine ⟨_, (x.matchPulse o e).1, exec_matchOp h o e, ?_, by omega⟩
    rw [State.respond_decoder?, s.decoder?_setDecoder_self d x _ h]

/-- Settles O18: the last bit of a byte appends it, any other bit enters `CURBYTE`. -/
theorem wbitWritesMostSignificantFirst : Obligations.WbitWritesMostSignificantFirst := by
  unfold Obligations.WbitWritesMostSignificantFirst
  intro s d x b h
  refine ⟨Instr.hasCode_of_encode rfl rfl, ?_⟩
  rw [exec_wbit h]
  split
  next last => rw [x.wbit_last b last]
  next inner => rw [x.wbit_inner b inner]

/-- Settles O20: DRST writes the record that the model's reset gives, field by field. -/
theorem drstResetsEverythingButTheConfiguration : Obligations.DrstResetsEverythingButTheConfiguration := by
  unfold Obligations.DrstResetsEverythingButTheConfiguration
  intro s d x m h
  exact ⟨Instr.hasCode_of_encode rfl rfl, exec_drst h m⟩

/-- Settles O21: RDLEM only answers, with `LASTERR` as it stands. -/
theorem rdlemReturnsLasterr : Obligations.RdlemReturnsLasterr := by
  unfold Obligations.RdlemReturnsLasterr
  intro s d x h
  exact ⟨Instr.hasCode_of_encode rfl rfl, exec_rdlem h⟩

/-- Settles O22: RDSTR only answers, with the strength of the decoder, which the recorded margin decides. -/
theorem rdstrFollowsTheFormula : Obligations.RdstrFollowsTheFormula := by
  unfold Obligations.RdstrFollowsTheFormula
  intro s d x h
  refine ⟨Instr.hasCode_of_encode rfl rfl, fun absent => ?_, fun zero => ?_, fun v hv hne heth => ?_⟩ <;> rw [exec_rdstr h]
  · rw [Decoder.strength_none absent]
  · rw [Decoder.strength_some zero, strengthOf_zero]
  · rw [Decoder.strength_some hv, strengthOf_formula hne heth]

end Sys2Proof.Machine

/-! ### The Tag protocol: preamble, data marks, encoder, field codec (R161 to R163, R169 to R171) -/

namespace Sys2Proof.Machine

/-! #### A step that tests one symbol (R162, R163) -/

/-- A symbol test that does not end in state 17: it advances or aborts, and returns nothing. -/
theorem Decoder.tagTest_inner (x : Decoder) (p e : Pulse) {next : BitVec 8} (hn : next ≠ 17#8) :
    x.tagTest p e next =
      { dec := if deviation p e < x.eth then x.advanced p e next else x.aborted, packet := none, event := none } := by
  split
  next hit => rw [x.tagTest_hit p e next hit, Decoder.tagArrive_inner _ hn]
  next miss => rw [x.tagTest_miss p e next miss]

/-- TDEC in a preamble state tests that entry of the preamble. -/
theorem Decoder.tdec_preamble {x : Decoder} {row : BitVec 8} (hx : x.state = row) (hr : row.toNat ≤ 2) (p : Pulse) :
    x.tdec p = x.tagTest p (Config.tagPreamble.getD row.toNat 0) (row + 1#8) := by
  subst hx
  simp [Decoder.tdec, hr]

/-- TDEC in a data mark state, an odd one from 3 to 15, tests the mark. -/
theorem Decoder.tdec_mark {x : Decoder} {row : BitVec 8} (hx : x.state = row) (lo : 3 ≤ row.toNat) (hi : row.toNat ≤ 15)
    (odd : row.toNat % 2 = 1) (p : Pulse) : x.tdec p = x.tagTest p Config.tagMark (row + 1#8) := by
  subst hx
  have notPreamble : ¬ x.state.toNat ≤ 2 := by omega
  have data : x.state.toNat ≤ 16 := by omega
  have mark : (x.state.toNat - 3) % 2 = 0 := by omega
  simp only [Decoder.tdec, if_neg notPreamble, if_pos data, if_pos mark]

/-- TDEC on a Tag decoder that is there. -/
theorem exec_tdec {s : State} {d : DecRef} {x : Decoder} (h : s.decoder? d = some x) (hp : x.proto = .tag) (p : Pulse) :
    exec (.tdec d p) s = .next (s.stepped d (x.tdec p).dec (x.tdec p).packet (x.tdec p).events) :=
  runStep_some _ h hp

/-- Where the row of a state tests one symbol and TDEC in that state makes the same test, both advance by one state or abort. -/
theorem exec_row_and_tdec_of_tagTest {s : State} {d : DecRef} {x : Decoder} {p e : Pulse} {row : BitVec 8} {i : Instr}
    (h : s.decoder? d = some x) (hp : x.proto = .tag) (hx : x.state = row) (hn : row + 1#8 ≠ 17#8)
    (hi : exec i s = runRow .tag row d s fun y => y.tagTest p e (row + 1#8)) (ht : x.tdec p = x.tagTest p e (row + 1#8)) :
    ∀ j ∈ [i, .tdec d p],
      exec j s = .next (if deviation p e < x.eth then s.stepped d (x.advanced p e (x.state + 1#8)) none []
        else s.stepped d x.aborted none []) := by
  have tested : exec i s = exec (.tdec d p) s := by
    rw [hi, runRow_some _ h hp hx, exec_tdec h hp, ht]
  have same : ∀ j ∈ [i, .tdec d p], exec j s = exec (.tdec d p) s := by simp [tested]
  intro j hj
  rw [same j hj, exec_tdec h hp, ht, x.tagTest_inner p e hn, hx]
  split <;> rfl

/-! #### The encoder (R169) -/

/-- Clearing bit 7 of a byte leaves its bits 6 to 0. -/
theorem getLsbD_and_7F (b : Byte) {i : Nat} (hi : i < 7) : (b &&& 0x7F#8).getLsbD i = b.getLsbD i := by
  have ones : ∀ k < 7, (0x7F#8).getLsbD k = true := by decide
  rw [BitVec.getLsbD_and, ones i hi, Bool.and_true]

/-- TENC's list does not depend on bit 7. -/
theorem tagEncode_and_7F (b : Byte) : tagEncode (b &&& 0x7F#8) = tagEncode b := by
  have below : ∀ i ∈ [6, 5, 4, 3, 2, 1, 0], i < 7 := by decide
  unfold tagEncode
  congr 1
  refine List.flatMap_congr fun i hi => ?_
  rw [getLsbD_and_7F b (below i hi)]

/-! #### The field codec (R170, R171) -/

theorem TagData.legal_iff (t : TagData) :
    t.legal = true ↔ 0 ≤ t.team ∧ t.team ≤ 3 ∧ 1 ≤ t.player ∧ t.player ≤ 8 ∧ 1 ≤ t.damage ∧ t.damage ≤ 4 := by
  simp [TagData.legal]

/-- The three fields of the byte `0ttpppdd` do not meet, so joining them is adding them. -/
theorem shiftLeft_or_fields {t p d : Nat} (hp : p < 8) (hd : d < 4) : t <<< 5 ||| p <<< 2 ||| d = t * 32 + p * 4 + d := by
  have low : p <<< 2 ||| d = p <<< 2 + d := (Nat.shiftLeft_add_eq_or_of_lt (by omega) p).symm
  have high : t <<< 5 ||| (p <<< 2 + d) = t <<< 5 + (p <<< 2 + d) :=
    (Nat.shiftLeft_add_eq_or_of_lt (by omega) t).symm
  rw [Nat.or_assoc, low, high]
  omega

/-- Shifting a number and then cutting it to a byte is shifting the byte. -/
theorem ofNat_shiftLeft (v k : Nat) : BitVec.ofNat 8 (v <<< k) = BitVec.ofNat 8 v <<< k := by
  refine BitVec.eq_of_toNat_eq ?_
  simp [Nat.shiftLeft_eq]

/-- Legal TagData is packed as the sum of its fields at their places. -/
theorem tagPack_of_legal {f : TagData} (h : f.legal = true) :
    tagPack f = BitVec.ofInt 8 (f.team * 32 + (f.player - 1) * 4 + (f.damage - 1)) := by
  obtain ⟨team0, team3, player1, player8, damage1, damage4⟩ := f.legal_iff.mp h
  obtain ⟨t, ht⟩ := Int.eq_ofNat_of_zero_le team0
  obtain ⟨p, hp⟩ := Int.eq_ofNat_of_zero_le (a := f.player - 1) (by omega)
  obtain ⟨d, hd⟩ := Int.eq_ofNat_of_zero_le (a := f.damage - 1) (by omega)
  have packed : tagPack f = BitVec.ofNat 8 (t <<< 5 ||| p <<< 2 ||| d) := by
    simp [tagPack, ht, hp, hd, BitVec.ofNat_or, ofNat_shiftLeft]
  rw [packed, shiftLeft_or_fields (by omega) (by omega), ht, hp, hd]
  exact (BitVec.ofInt_natCast 8 (t * 32 + p * 4 + d)).symm

/-- The fields of every byte are legal (R171). -/
theorem tagFields_legal (tt : BitVec 2) (ppp : BitVec 3) (dd : BitVec 2) : (tagFields tt ppp dd).legal = true := by
  have team := tt.isLt
  have player := ppp.isLt
  have damage := dd.isLt
  refine (TagData.legal_iff _).mpr ?_
  simp only [tagFields]
  omega

/-- Clearing bit 7 of a byte leaves every field below it. -/
theorem extractLsb'_and_7F (b : Byte) {lo len : Nat} (h : lo + len ≤ 7) :
    (b &&& 0x7F#8).extractLsb' lo len = b.extractLsb' lo len := by
  refine BitVec.eq_of_getLsbD_eq fun i hi => ?_
  rw [BitVec.getLsbD_extractLsb', BitVec.getLsbD_extractLsb', getLsbD_and_7F b (by omega)]

/-- TGUP's fields do not depend on bit 7. -/
theorem tagUnpack_and_7F (b : Byte) : tagUnpack (b &&& 0x7F#8) = tagUnpack b := by
  simp [tagUnpack, tagTeam, tagPlayer, tagDamage, extractLsb'_and_7F]

/-! #### The fields of a byte as numbers (R91) -/

theorem tagTeam_toNat (b : Byte) : (tagTeam b).toNat = b.toNat / 32 % 4 := by
  simp [tagTeam, BitVec.extractLsb'_toNat, Nat.shiftRight_eq_div_pow]

theorem tagPlayer_toNat (b : Byte) : (tagPlayer b).toNat = b.toNat / 4 % 8 := by
  simp [tagPlayer, BitVec.extractLsb'_toNat, Nat.shiftRight_eq_div_pow]

theorem tagDamage_toNat (b : Byte) : (tagDamage b).toNat = b.toNat % 4 := by
  simp [tagDamage, BitVec.extractLsb'_toNat]

/-! #### What each operation of the encoder and the codec does -/

theorem exec_tenc (s : State) (b : Byte) : exec (.tenc b) s = .next (s.respond (.pulses (tagEncode b)) []) := rfl

theorem exec_tgup (s : State) (b : Byte) : exec (.tgup b) s = .next (s.respond (.tag (tagUnpack b)) []) := rfl

/-- TGPK of legal TagData. -/
theorem exec_tgpk_legal (s : State) {f : TagData} (h : f.legal = true) :
    exec (.tgpk f.team f.player f.damage) s = .next (s.respond (.byte (tagPack f)) []) :=
  if_pos h

/-- TGPK of any other TagData. -/
theorem exec_tgpk_illegal (s : State) {f : TagData} (h : ¬ f.legal = true) :
    exec (.tgpk f.team f.player f.damage) s = .next (s.respond (.raised .rangeError) []) :=
  if_neg h

/-! #### The statements -/

/-- Settles O26: the row of each preamble state and TDEC there make one test, of that entry of the preamble. -/
theorem tagPreambleStates : Obligations.TagPreambleStates := by
  unfold Obligations.TagPreambleStates
  intro s d x p h hp z hz hx
  simp only [List.mem_cons, List.not_mem_nil, or_false] at hz
  obtain rfl | rfl | rfl := hz
  all_goals
    dsimp only at hx ⊢
    exact exec_row_and_tdec_of_tagTest h hp hx (by decide) rfl (Decoder.tdec_preamble hx (by decide) p)

/-- Settles O27: the row of each data mark state and TDEC there make one test, of the mark. -/
theorem tagDataMarkStates : Obligations.TagDataMarkStates := by
  unfold Obligations.TagDataMarkStates
  intro s d x p h hp z hz hx
  simp only [List.mem_cons, List.not_mem_nil, or_false] at hz
  obtain rfl | rfl | rfl | rfl | rfl | rfl | rfl := hz
  all_goals
    dsimp only at hx ⊢
    exact exec_row_and_tdec_of_tagTest h hp hx (by decide) rfl (Decoder.tdec_mark hx (by decide) (by decide) (by decide) p)

/-- Settles O33: TENC's list written out is the statement's, and it reads only the bits 6 to 0. -/
theorem tencEmitsTheFrame : Obligations.TencEmitsTheFrame := by
  unfold Obligations.TencEmitsTheFrame
  intro s b
  refine ⟨tagEncode b, exec_tenc s b, Instr.hasCode_of_encode rfl rfl, rfl, ?bit7⟩
  case bit7 => rw [exec_tenc, exec_tenc, tagEncode_and_7F]

/-- Settles O34: the statement's range test is the negation of being legal. -/
theorem tgpkPacksOrRaises : Obligations.TgpkPacksOrRaises := by
  unfold Obligations.TgpkPacksOrRaises
  intro s team player damage
  refine ⟨Instr.hasCode_of_encode rfl rfl, ?_⟩
  split
  next outside => exact exec_tgpk_illegal s (f := { team, player, damage }) (mt (TagData.legal_iff _).mp (by simp only; omega))
  next inside =>
    have legal : TagData.legal { team, player, damage } = true := (TagData.legal_iff _).mpr (by simp only; omega)
    rw [exec_tgpk_legal s legal, tagPack_of_legal legal]

/-- Settles O35: the fields are the bits 6 to 0 of the byte, read as numbers. -/
theorem tgupReadsTheFields : Obligations.TgupReadsTheFields := by
  unfold Obligations.TgupReadsTheFields
  intro s b
  refine ⟨tagUnpack b, exec_tgup s b, Instr.hasCode_of_encode rfl rfl, ?team, ?player, ?damage, tagFields_legal _ _ _, ?bit7⟩
  case team => rw [← tagTeam_toNat]; rfl
  case player => rw [← tagPlayer_toNat]; rfl
  case damage => rw [← tagDamage_toNat]; rfl
  case bit7 => rw [exec_tgup, exec_tgup, tagUnpack_and_7F]

end Sys2Proof.Machine

/-! ### The CRCLP protocol: the header (R193, R194) -/

namespace Sys2Proof.Machine

/-! #### The step that CDEC makes in the two header states (R192) -/

theorem Decoder.cdec_seek {x : Decoder} (hx : x.state = 0#8) (c : Params) (p : Pulse) : x.cdec c p = x.cdecSeek p := by
  simp [Decoder.cdec, hx]

theorem Decoder.cdec_header {x : Decoder} (hx : x.state = 1#8) (c : Params) (p : Pulse) : x.cdec c p = x.cdecHeader p := by
  simp [Decoder.cdec, hx]

/-- CDEC on a CRCLP decoder that is there. -/
theorem exec_cdec {s : State} {d : DecRef} {x : Decoder} (h : s.decoder? d = some x) (hp : x.proto = .crclp) (p : Pulse) :
    exec (.cdec d p) s =
      .next (s.stepped d (x.cdec s.params p).dec (x.cdec s.params p).packet (x.cdec s.params p).events) :=
  runStep_some _ h hp

/-- Where CDEC makes the step of the row that STATE selects, the row and CDEC both end with that step. -/
theorem exec_row_and_cdec {s : State} {d : DecRef} {x : Decoder} {p : Pulse} {row : BitVec 8} {i : Instr} {f : Decoder → StepResult}
    (h : s.decoder? d = some x) (hp : x.proto = .crclp) (hx : x.state = row) (hi : exec i s = runRow .crclp row d s f)
    (hf : x.cdec s.params p = f x) :
    ∀ j ∈ [i, .cdec d p], exec j s = .next (s.stepped d (f x).dec (f x).packet (f x).events) := by
  have atRow : exec i s = .next (s.stepped d (f x).dec (f x).packet (f x).events) := by rw [hi, runRow_some f h hp hx]
  have atCdec : exec (.cdec d p) s = .next (s.stepped d (f x).dec (f x).packet (f x).events) := by rw [exec_cdec h hp, hf]
  simp [atRow, atCdec]

/-- A step that returns nothing and leaves the decoder as it is writes nothing but its answer. -/
theorem State.stepped_self {s : State} {d : DecRef} {x : Decoder} (h : s.decoder? d = some x) (pkt : Option Packet)
    (events : List Corrupt) : s.stepped d x pkt events = s.respond (.packet pkt) events := by
  rw [State.stepped, s.setDecoder_self d x h]

/-! #### The statements -/

/-- Settles O39: a match advances to state 1; on a mismatch the decoder written back is the one that was read. -/
theorem crclpSeekState : Obligations.CrclpSeekState := by
  unfold Obligations.CrclpSeekState
  intro s d x p h hp hx i hi
  rw [exec_row_and_cdec h hp hx rfl (Decoder.cdec_seek hx s.params p) i hi]
  obtain ⟨hit, step⟩ | ⟨miss, step⟩ := x.cdecSeek_cases p <;> rw [step]
  · rw [if_pos hit]; rfl
  · rw [if_neg miss]; exact congrArg _ (State.stepped_self h none [])

/-- Settles O40: a match advances to state 2, and the mismatch is an abort. -/
theorem crclpHeaderState : Obligations.CrclpHeaderState := by
  unfold Obligations.CrclpHeaderState
  intro s d x p h hp hx i hi
  rw [exec_row_and_cdec h hp hx rfl (Decoder.cdec_header hx s.params p) i hi]
  obtain ⟨hit, step⟩ | ⟨miss, step⟩ := x.cdecHeader_cases p <;> rw [step]
  · rw [if_pos hit]; rfl
  · rw [if_neg miss]; rfl

end Sys2Proof.Machine

/-! ### The arbiter's queries: QBEST, QRANK, QWMAR, QWSTR (R240 to R243) -/

namespace Sys2Proof.Machine

/-! #### The snapshot by its sensors (R36) -/

/-- The entries that are present in the snapshot are those of the sensors. -/
theorem Multi.snapshot_present {u : Multi} {i : Nat} {e : SnapEntry} :
    u.snapshot[i]? = some (some e) ↔ ∃ x, u.sensors[i]? = some x ∧ x.snap = some e := by
  simp [Multi.snapshot]

/-! #### The head of the ranked list (R240, R241) -/

/-- The ranked list starts with the best entry: whatever stands behind it has a higher margin, or the same and a higher index. -/
theorem rankOf_head?_isBest (snap : List (Option SnapEntry)) : IsBest snap (rankOf snap).head? := by
  have present := @mem_rankOf snap
  have ranked := rankOf_ranked snap
  cases h : rankOf snap with
  | nil =>
    rw [h] at present
    exact fun j f hj => List.not_mem_nil (present.mpr hj)
  | cons b behind =>
    rw [h] at present ranked
    refine ⟨present.mp List.mem_cons_self, fun j f hj => ?_⟩
    obtain rfl | hmem := List.mem_cons.mp (present.mpr hj)
    · exact ⟨Nat.le_refl _, fun hlt => absurd hlt (Nat.lt_irrefl _)⟩
    · have before : b.2.margin < f.margin ∨ (b.2.margin = f.margin ∧ b.1 < j) := List.rel_of_pairwise_cons ranked hmem
      omega

theorem rankOf_head? (snap : List (Option SnapEntry)) : (rankOf snap).head? = bestOf snap :=
  (rankOf_head?_isBest snap).unique (bestOf_isBest snap)

/-! #### What each query does on a multi-sensor receiver that is there -/

section
variable {s : State} {m : Nat} {u : Multi} (h : s.multis[m]? = some u)
include h

theorem exec_qbest : exec (.qbest m) s = .next (s.respond (.sensor ((bestOf u.snapshot).map Prod.fst)) []) :=
  onSnapshot_some (fun snap => .sensor ((bestOf snap).map Prod.fst)) h

theorem exec_qrank : exec (.qrank m) s = .next (s.respond (.ranking ((rankOf u.snapshot).map Prod.fst)) []) :=
  onSnapshot_some (fun snap => .ranking ((rankOf snap).map Prod.fst)) h

theorem exec_qwmar : exec (.qwmar m) s = .next (s.respond (.margin ((bestOf u.snapshot).map fun w => w.2.margin)) []) :=
  onSnapshot_some (fun snap => .margin ((bestOf snap).map fun w : Nat × SnapEntry => w.2.margin)) h

theorem exec_qwstr : exec (.qwstr m) s = .next (s.respond (.strength ((bestOf u.snapshot).map fun w => w.2.strength)) []) :=
  onSnapshot_some (fun snap => .strength ((bestOf snap).map fun w : Nat × SnapEntry => w.2.strength)) h

/-- QBEST answers the index of whatever meets the definition of the best entry, for only one does. -/
theorem exec_qbest_of_isBest {best : Option (Nat × SnapEntry)} (hb : IsBest u.snapshot best) :
    exec (.qbest m) s = .next (s.respond (.sensor (best.map Prod.fst)) []) := by
  rw [exec_qbest h, (bestOf_isBest u.snapshot).unique hb]

end

/-! #### The statements -/

/-- Settles O55: in each clause the named answer meets the definition of the best entry, which is unique. -/
theorem qbestIsTheLowestMargin : Obligations.QbestIsTheLowestMargin := by
  unfold Obligations.QbestIsTheLowestMargin
  intro s m u h
  refine ⟨Instr.hasCode_of_encode rfl rfl, fun absent => ?none, fun w xw e hw he lowest => ?lowest⟩
  case none =>
    have best : IsBest u.snapshot none := by
      intro j f hj
      obtain ⟨x, hx, hf⟩ := Multi.snapshot_present.mp hj
      cases (absent x (List.mem_of_getElem? hx)).symm.trans hf
    exact exec_qbest_of_isBest h best
  case lowest =>
    have best : IsBest u.snapshot (some (w, e)) := by
      refine ⟨Multi.snapshot_present.mpr ⟨xw, hw, he⟩, fun j f hj => ?_⟩
      obtain ⟨x, hx, hf⟩ := Multi.snapshot_present.mp hj
      exact lowest j x f hx hf
    exact exec_qbest_of_isBest h best

/-- Settles O56: the answer is the ranked list of the present entries without their margins, and its head is the best entry. -/
theorem qrankIsSortedByMargin : Obligations.QrankIsSortedByMargin := by
  unfold Obligations.QrankIsSortedByMargin
  intro s m u h
  refine ⟨Instr.hasCode_of_encode rfl rfl, _, exec_qrank h, fun i => ?present, ?sorted, ?head⟩
  case present =>
    calc i ∈ (rankOf u.snapshot).map Prod.fst
      _ ↔ ∃ e, (i, e) ∈ rankOf u.snapshot := by simp
      _ ↔ ∃ e x, u.sensors[i]? = some x ∧ x.snap = some e := by simp only [mem_rankOf, Multi.snapshot_present]
      _ ↔ ∃ x e, u.sensors[i]? = some x ∧ x.snap = some e := exists_comm
  case sorted =>
    have entry : ∀ a ∈ rankOf u.snapshot, ∀ x e, u.sensors[a.1]? = some x → x.snap = some e → e = a.2 := by
      intro a ha x e hx he
      have listed := mem_rankOf.mp ha
      have read := Multi.snapshot_present.mpr ⟨x, hx, he⟩
      exact Option.some.inj (Option.some.inj (read.symm.trans listed))
    refine List.pairwise_map.mpr ((rankOf_ranked u.snapshot).imp_of_mem ?_)
    intro a b ha hb before x y e f hx he hy hf
    rw [entry a ha x e hx he, entry b hb y f hy hf]
    exact before
  case head => rw [List.head?_map, rankOf_head?, exec_qbest h]

/-- Settles O57: the three queries read one best entry, which is the snapshot entry of the sensor it names. -/
theorem qwmarAndQwstrReadTheBestEntry : Obligations.QwmarAndQwstrReadTheBestEntry := by
  unfold Obligations.QwmarAndQwstrReadTheBestEntry
  intro s m u h
  refine ⟨Instr.hasCode_of_encode rfl rfl, Instr.hasCode_of_encode rfl rfl, _, exec_qbest h, ?_⟩
  rw [exec_qwmar h, exec_qwstr h]
  have best := bestOf_isBest u.snapshot
  cases hb : bestOf u.snapshot with
  | none => exact ⟨fun _ => ⟨rfl, rfl⟩, fun _ named => nomatch named⟩
  | some b =>
    rw [hb] at best
    obtain ⟨read, -⟩ := best
    refine ⟨fun absent => (nomatch absent), fun i named => ?_⟩
    obtain rfl : b.1 = i := Option.some.inj named
    obtain ⟨x, hx, he⟩ := Multi.snapshot_present.mp read
    exact ⟨x, b.2, hx, he, rfl, rfl⟩

end Sys2Proof.Machine

/-! ### Decoding and encoding are inverse to each other (R91, R96, R100, R110) -/

namespace Sys2Proof

/-! #### A word cut in two -/

theorem toNat_append_eq {m n : Nat} (hi : BitVec m) (lo : BitVec n) : (hi ++ lo).toNat = hi.toNat * 2 ^ n + lo.toNat := by
  rw [BitVec.toNat_append, ← Nat.shiftLeft_add_eq_or_of_lt lo.isLt, Nat.shiftLeft_eq]

/-- A word is its high bits followed by its low ones. -/
theorem append_extractLsb' {m n : Nat} {hi : BitVec m} {w : BitVec (m + n)} (h : w.toNat / 2 ^ n = hi.toNat) :
    hi ++ w.extractLsb' 0 n = w := by
  refine BitVec.eq_of_toNat_eq ?_
  rw [toNat_append_eq, BitVec.extractLsb'_toNat, Nat.shiftRight_zero, ← h]
  exact Nat.div_add_mod' w.toNat (2 ^ n)

/-! #### The rows of the two state maps, by the range of STATE (R96, R100) -/

/-- The rows of the Tag state map from state 18 on. -/
theorem decodeTagState_other {w : Byte} (h : 18 ≤ w.toNat) (d : DecRef) (p : Pulse) :
    decodeTagState w d p =
      if w.toNat < 20 then .tagOther18 (w.extractLsb' 0 1) d p
      else if w.toNat < 24 then .tagOther20 (w.extractLsb' 0 2) d p
      else if w.toNat < 32 then .tagOther24 (w.extractLsb' 0 3) d p
      else if w.toNat < 64 then .tagOther32 (w.extractLsb' 0 5) d p
      else if w.toNat < 128 then .tagOther64 (w.extractLsb' 0 6) d p
      else .tagOther128 (w.extractLsb' 0 7) d p := by
  unfold decodeTagState
  split
  case h_19 => rfl
  all_goals omega

/-- The rows of the CRCLP state map from state 4 on. -/
theorem decodeCrclpState_other {w : Byte} (h : 4 ≤ w.toNat) (d : DecRef) (p : Pulse) :
    decodeCrclpState w d p =
      if w.toNat < 8 then .crclpOther4 (w.extractLsb' 0 2) d p
      else if w.toNat < 16 then .crclpOther8 (w.extractLsb' 0 3) d p
      else if w.toNat < 32 then .crclpOther16 (w.extractLsb' 0 4) d p
      else if w.toNat < 64 then .crclpOther32 (w.extractLsb' 0 5) d p
      else if w.toNat < 128 then .crclpOther64 (w.extractLsb' 0 6) d p
      else .crclpOther128 (w.extractLsb' 0 7) d p := by
  unfold decodeCrclpState
  split
  case h_5 => rfl
  all_goals omega

/-! #### Decoding the requests that `encode` makes -/

theorem toNat_ofNat_of_fitsPort {p : Pulse} (hp : Pulse.fitsPort p = true) : (BitVec.ofNat pulseWidth p).toNat = p := by
  rw [BitVec.toNat_ofNat, Nat.mod_eq_of_lt (of_decide_eq_true hp)]

theorem decode_tagRequest (w : Byte) (d : DecRef) {p : Pulse} (hp : Pulse.fitsPort p = true) :
    decode (tagRequest w d p) = .ok (decodeTagState w d p) := by
  simp only [decode, tagRequest, stepLines, toNat_ofNat_of_fitsPort hp]

theorem decode_crclpRequest (w : Byte) (d : DecRef) {p : Pulse} (hp : Pulse.fitsPort p = true) :
    decode (crclpRequest w d p) = .ok (decodeCrclpState w d p) := by
  simp only [decode, crclpRequest, stepLines, toNat_ofNat_of_fitsPort hp]

/-- Every tag byte is read back from its own word. -/
theorem decode_tagByte (tt : BitVec 2) (ppp : BitVec 3) (dd : BitVec 2) :
    decode (encode (.tagByte tt ppp dd)) = .ok (.tagByte tt ppp dd) := by
  revert tt ppp dd; decide

/-- Settles O1: each row is read back from its code, and each operand from its line. In the rows that stand for a range of states, the
range is found from the word, and the bits that the row leaves open are its low bits. -/
theorem decodeOfEncode : Obligations.DecodeOfEncode := by
  unfold Obligations.DecodeOfEncode
  intro i h
  cases i
  case tagS0 | tagS1 | tagS2 | tagS3 | tagS4 | tagS5 | tagS6 | tagS7 | tagS8 | tagS9 | tagS10 | tagS11 | tagS12 | tagS13 | tagS14
    | tagS15 | tagS16 | tagS17 => exact decode_tagRequest _ _ h
  case crclpS0 | crclpS1 | crclpS2 | crclpOther3 => exact decode_crclpRequest _ _ h
  case tagOther18 x d p | tagOther20 x d p | tagOther24 x d p | tagOther32 x d p | tagOther64 x d p | tagOther128 x d p =>
    have low := x.isLt
    have word := fun k (hi : BitVec k) => toNat_append_eq hi x
    refine (decode_tagRequest _ d h).trans (congrArg _ ?_)
    rw [decodeTagState_other (by rw [word, BitVec.toNat_ofNat]; omega), word, BitVec.toNat_ofNat]
    split_ifs
    any_goals omega
    rw [BitVec.extractLsb'_append_eq_right]
  case crclpOther4 x d p | crclpOther8 x d p | crclpOther16 x d p | crclpOther32 x d p | crclpOther64 x d p | crclpOther128 x d p =>
    have low := x.isLt
    have word := fun k (hi : BitVec k) => toNat_append_eq hi x
    refine (decode_crclpRequest _ d h).trans (congrArg _ ?_)
    rw [decodeCrclpState_other (by rw [word, BitVec.toNat_ofNat]; omega), word, BitVec.toNat_ofNat]
    split_ifs
    any_goals omega
    rw [BitVec.extractLsb'_append_eq_right]
  case tagByte tt ppp dd => exact decode_tagByte tt ppp dd
  all_goals refine (decode_opRequest _ _).trans (congrArg _ ?_)
  case matchOp d o e =>
    obtain ⟨ho, he⟩ := Bool.and_eq_true_iff.mp h
    exact congrArg₂ _ (toNat_ofNat_of_fitsPort ho) (toNat_ofNat_of_fitsPort he)
  case tdec d p => exact congrArg _ (toNat_ofNat_of_fitsPort h)
  case cdec d p => exact congrArg _ (toNat_ofNat_of_fitsPort h)
  case drst d m =>
    cases m with
    | none => rfl
    | some m => exact congrArg _ (congrArg _ (toNat_ofNat_of_fitsPort h))
  case send t data sink => cases data <;> rfl
  case reserved6 x | reserved14 x | reserved22 x | reserved26 x | reserved28 x => clear h; revert x; decide
  all_goals rfl

/-! #### Encoding the instruction that a word decodes to -/

theorem encode_decodeTagState (w : Byte) (d : DecRef) (p : Pulse) : encode (decodeTagState w d p) = tagRequest w d p := by
  by_cases other : 18 ≤ w.toNat
  · have lt := w.isLt
    rw [decodeTagState_other other]
    split_ifs <;> refine congrArg (tagRequest · d p) (append_extractLsb' ?_) <;> simp <;> omega
  · obtain ⟨k, hk, rfl⟩ : ∃ k < 18, w = BitVec.ofNat 8 k := ⟨w.toNat, by omega, by simp⟩
    interval_cases k <;> rfl

theorem encode_decodeCrclpState (w : Byte) (d : DecRef) (p : Pulse) : encode (decodeCrclpState w d p) = crclpRequest w d p := by
  by_cases other : 4 ≤ w.toNat
  · have lt := w.isLt
    rw [decodeCrclpState_other other]
    split_ifs <;> refine congrArg (crclpRequest · d p) (append_extractLsb' ?_) <;> simp <;> omega
  · obtain ⟨k, hk, rfl⟩ : ∃ k < 4, w = BitVec.ofNat 8 k := ⟨w.toNat, by omega, by simp⟩
    interval_cases k <;> rfl

theorem encode_decodeOp (code : BitVec 5) (l : Lines) : ∃ l', encode (decodeOp code l) = opRequest code l' := by
  have lt := code.isLt
  by_cases last : 28 ≤ code.toNat
  · have reserved : 0b111#3 ++ code.extractLsb' 0 2 = code := append_extractLsb' (by simp; omega)
    unfold decodeOp
    split
    case h_29 => exact ⟨_, congrArg (opRequest · Lines.zero) reserved⟩
    all_goals omega
  · obtain ⟨k, hk, rfl⟩ : ∃ k < 28, code = BitVec.ofNat 5 k := ⟨code.toNat, by omega, by simp⟩
    interval_cases k <;> exact ⟨_, rfl⟩

/-! #### What a line carries fits the port (D4) -/

theorem fitsPort_toNat (v : BitVec pulseWidth) : Pulse.fitsPort v.toNat = true := decide_eq_true v.isLt

theorem wellFormed_decodeTagState (w : Byte) (d : DecRef) {p : Pulse} (hp : Pulse.fitsPort p = true) :
    (decodeTagState w d p).wellFormed = true := by
  simp only [decodeTagState]
  split
  case h_19 => split_ifs <;> exact hp
  all_goals exact hp

theorem wellFormed_decodeCrclpState (w : Byte) (d : DecRef) {p : Pulse} (hp : Pulse.fitsPort p = true) :
    (decodeCrclpState w d p).wellFormed = true := by
  simp only [decodeCrclpState]
  split
  case h_5 => split_ifs <;> exact hp
  all_goals exact hp

theorem wellFormed_decodeOp (code : BitVec 5) (l : Lines) : (decodeOp code l).wellFormed = true := by
  have dur0 := fitsPort_toNat l.dur0
  unfold decodeOp
  split
  case h_2 => exact Bool.and_eq_true_iff.mpr ⟨dur0, fitsPort_toNat l.dur1⟩
  case h_4 =>
    cases l.optDur with
    | none => rfl
    | some v => exact fitsPort_toNat v
  case h_9 | h_13 => exact dur0
  all_goals rfl

/-- Settles O2: in each format the instruction is well-formed and its own request carries the word that was read. -/
theorem decodedWordIsTheInstructionsOwn : Obligations.DecodedWordIsTheInstructionsOwn := by
  unfold Obligations.DecodedWordIsTheInstructionsOwn
  rintro ⟨format, w, l⟩ i h
  have lt := w.isLt
  unfold decode at h
  cases format with dsimp only at h
  | op =>
    split_ifs at h with high
    cases h
    obtain ⟨l', own⟩ := encode_decodeOp (w.extractLsb' 0 5) l
    rw [own]
    refine ⟨wellFormed_decodeOp _ l, rfl, BitVec.eq_of_toNat_eq ?_⟩
    have small : w.toNat / 32 % 8 = 0 := by simpa [BitVec.extractLsb'_toNat, Nat.shiftRight_eq_div_pow] using congrArg BitVec.toNat high
    simp [opRequest]
    omega
  | tagState =>
    cases h
    rw [encode_decodeTagState]
    exact ⟨wellFormed_decodeTagState w _ (fitsPort_toNat l.dur0), rfl, rfl⟩
  | crclpState =>
    cases h
    rw [encode_decodeCrclpState]
    exact ⟨wellFormed_decodeCrclpState w _ (fitsPort_toNat l.dur0), rfl, rfl⟩
  | dataByte =>
    split_ifs at h with high
    cases h
    have own : ∀ w : Byte, w.extractLsb' 7 1 = 0#1 → (encode (decodeTagByte w)).word = w := by decide
    exact ⟨rfl, rfl, own w high⟩

/-- Settles O3: every word is closed, and decodes by evaluation. -/
theorem wordsDecodeAsWritten : Obligations.WordsDecodeAsWritten := by
  unfold Obligations.WordsDecodeAsWritten
  exact ⟨rfl, rfl, rfl, rfl, rfl⟩

/-- Settles O4: each operation's request is made with its code, and its reach is read off the table. -/
theorem selectCodesAndReach : Obligations.SelectCodesAndReach := by
  unfold Obligations.SelectCodesAndReach
  intro d o e b m byte team player damage bytes n data k
  refine ⟨?_, ?_, ?_, ?_, ?_, ?_, ?_, ?_, ?_, ?_, ?_, ?_, ?_, ?_, ?_, ?_, ?_, ?_⟩
  all_goals exact Instr.hasCode_of_encode rfl rfl

end Sys2Proof

namespace Sys2Proof.Machine

/-- Settles O6: an admitted request is executed, and without one the step is idle. -/
theorem stepRunsTheOldestRequest : Obligations.StepRunsTheOldestRequest := by
  unfold Obligations.StepRunsTheOldestRequest
  refine ⟨fun s r rest i hr hd hi => step_of_admitted hr (admitRequest_of_reachable hd hi), fun s hr => ?_⟩
  simp [step, State.fetch, hr]

/-! ### The rows of the state maps as instructions (R96, R100), and what is refused -/

/-! #### TDEC by the range of STATE (R161) -/

section
variable {x : Decoder} {row : BitVec 8} (hx : x.state = row)
include hx

/-- TDEC in a data space state, an even one from 4 to 16. -/
theorem Decoder.tdec_space (lo : 4 ≤ row.toNat) (hi : row.toNat ≤ 16) (even : row.toNat % 2 = 0) (p : Pulse) :
    x.tdec p = x.tagSpaceTest p (row + 1#8) := by
  subst hx
  have notPreamble : ¬ x.state.toNat ≤ 2 := by omega
  have notMark : ¬ (x.state.toNat - 3) % 2 = 0 := by omega
  simp only [Decoder.tdec, if_neg notPreamble, if_pos hi, if_neg notMark]

/-- TDEC in the completion state. -/
theorem Decoder.tdec_completion (hr : row = 17#8) (p : Pulse) : x.tdec p = x.tagComplete := by
  subst hx
  simp [Decoder.tdec, hr]

/-- TDEC in any state from 18 on. -/
theorem Decoder.tdec_other (lo : 18 ≤ row.toNat) (p : Pulse) : x.tdec p = x.abort := by
  subst hx
  have notPreamble : ¬ x.state.toNat ≤ 2 := by omega
  have notData : ¬ x.state.toNat ≤ 16 := by omega
  have notLast : ¬ x.state.toNat = 17 := by omega
  simp only [Decoder.tdec, if_neg notPreamble, if_neg notData, if_neg notLast]

/-! #### CDEC by the range of STATE (R192) -/

theorem Decoder.cdec_data (hr : row = 2#8) (c : Params) (p : Pulse) : x.cdec c p = x.cdecData c p := by
  subst hx
  simp [Decoder.cdec, hr]

/-- CDEC in any state from 3 on. -/
theorem Decoder.cdec_other (lo : 3 ≤ row.toNat) (c : Params) (p : Pulse) : x.cdec c p = x.abort := by
  subst hx
  have ne : ∀ k < 3, x.state ≠ BitVec.ofNat 8 k := by
    intro k hk e
    rw [e, BitVec.toNat_ofNat] at lo
    omega
  simp only [Decoder.cdec, if_neg (ne 0 (by omega)), if_neg (ne 1 (by omega)), if_neg (ne 2 (by omega))]

end

/-! #### The row that a STATE value selects -/

/-- The instruction that a Tag STATE selects is that row of the map, and on a decoder in that state it makes TDEC's step. -/
theorem decodeTagState_row (w : Byte) (d : DecRef) (p : Pulse) :
    ∃ f, (∀ s, exec (decodeTagState w d p) s = runRow .tag w d s f) ∧ ∀ x : Decoder, x.state = w → f x = x.tdec p := by
  by_cases other : 18 ≤ w.toNat
  · have lt := w.isLt
    refine ⟨Decoder.abort, fun s => ?_, fun x hx => (Decoder.tdec_other hx other p).symm⟩
    rw [decodeTagState_other other]
    split_ifs <;> refine congrArg (runRow .tag · d s Decoder.abort) (append_extractLsb' ?_) <;> simp <;> omega
  · have row : w = BitVec.ofNat 8 w.toNat := by simp
    unfold decodeTagState
    split
    case h_19 => interval_cases hw : w.toNat <;> simp_all
    all_goals
      rename_i hw
      rw [hw] at row
      subst row
      refine ⟨_, fun s => rfl, fun x hx => ?_⟩
    case h_1 | h_2 | h_3 => exact (Decoder.tdec_preamble hx (by decide) p).symm
    case h_4 | h_6 | h_8 | h_10 | h_12 | h_14 | h_16 => exact (Decoder.tdec_mark hx (by decide) (by decide) (by decide) p).symm
    case h_5 | h_7 | h_9 | h_11 | h_13 | h_15 | h_17 => exact (Decoder.tdec_space hx (by decide) (by decide) (by decide) p).symm
    case h_18 => exact (Decoder.tdec_completion hx rfl p).symm

/-- The instruction that a CRCLP STATE selects is that row of the map, and on a decoder in that state it makes CDEC's step. -/
theorem decodeCrclpState_row (w : Byte) (d : DecRef) (p : Pulse) :
    ∃ f : Params → Decoder → StepResult, (∀ s, exec (decodeCrclpState w d p) s = runRow .crclp w d s (f s.params)) ∧
      ∀ c (x : Decoder), x.state = w → f c x = x.cdec c p := by
  by_cases other : 4 ≤ w.toNat
  · have lt := w.isLt
    refine ⟨fun _ => Decoder.abort, fun s => ?_, fun c x hx => (Decoder.cdec_other hx (by omega) c p).symm⟩
    rw [decodeCrclpState_other other]
    split_ifs <;> refine congrArg (runRow .crclp · d s Decoder.abort) (append_extractLsb' ?_) <;> simp <;> omega
  · have row : w = BitVec.ofNat 8 w.toNat := by simp
    unfold decodeCrclpState
    split
    case h_5 => interval_cases hw : w.toNat <;> simp_all
    all_goals
      rename_i hw
      rw [hw] at row
      subst row
    case h_1 => exact ⟨fun _ x => x.cdecSeek p, fun s => rfl, fun c x hx => (Decoder.cdec_seek hx c p).symm⟩
    case h_2 => exact ⟨fun _ x => x.cdecHeader p, fun s => rfl, fun c x hx => (Decoder.cdec_header hx c p).symm⟩
    case h_3 => exact ⟨fun c x => x.cdecData c p, fun s => rfl, fun c x hx => (Decoder.cdec_data hx rfl c p).symm⟩
    case h_4 => exact ⟨fun _ => Decoder.abort, fun s => rfl, fun c x hx => (Decoder.cdec_other hx (by decide) c p).symm⟩

section
variable {s : State} {d : DecRef} {x : Decoder} (h : s.decoder? d = some x)
include h

/-- The row that the STATE of a Tag decoder selects does what TDEC does. -/
theorem exec_decodeTagState (hp : x.proto = .tag) (p : Pulse) : exec (decodeTagState x.state d p) s = exec (.tdec d p) s := by
  obtain ⟨f, row, step⟩ := decodeTagState_row x.state d p
  rw [row, runRow_some f h hp rfl, step x rfl, exec_tdec h hp]

/-! #### What is refused (log entries 18 and 20) -/

theorem runStep_wrongProtocol {proto : Protocol} (hp : x.proto ≠ proto) (f : Decoder → StepResult) :
    runStep proto d s f = .refused (.wrongProtocol d) := by
  simp [runStep, onDecoder, h, hp]

theorem runRow_wrongProtocol {proto : Protocol} (hp : x.proto ≠ proto) (row : BitVec 8) (f : Decoder → StepResult) :
    runRow proto row d s f = .refused (.wrongProtocol d) := by
  simp [runRow, onDecoder, h, hp]

theorem runRow_notSelected {proto : Protocol} {row : BitVec 8} (hp : x.proto = proto) (hr : x.state ≠ row) (f : Decoder → StepResult) :
    runRow proto row d s f = .refused (.rowNotSelected d row) := by
  simp [runRow, onDecoder, h, hp, hr]

end

theorem onDecoder_none {s : State} {d : DecRef} (h : s.decoder? d = none) (k : Decoder → Answer) :
    onDecoder d s k = .refused (.noSuchDecoder d) := by
  simp [onDecoder, h]

/-- An instruction that writes or reads a decoder is refused where the block has none. -/
theorem exec_of_no_decoder {i : Instr} {s : State} {d : DecRef} (h : s.decoder? d = none)
    (hi : i.writesDecoder = some d ∨ i = .rdlem d ∨ i = .rdstr d) : exec i s = .refused (.noSuchDecoder d) := by
  obtain hi | rfl | rfl := hi
  · cases i <;> cases hi <;> exact onDecoder_none h _
  · exact onDecoder_none h _
  · exact onDecoder_none h _

/-- Settles O7: each shape of instruction refuses by its own name, and the rows of the state maps are of the shape `runRow`. -/
theorem unfitOperandsAreRefused : Obligations.UnfitOperandsAreRefused := by
  unfold Obligations.UnfitOperandsAreRefused
  refine ⟨fun s d h i hi => exec_of_no_decoder h hi, fun s d x p h => ⟨fun hp => ⟨?_, fun w => ?_⟩, fun hp => ⟨?_, fun w => ?_⟩,
    fun hp w hw => ?_, fun hp w hw => ?_⟩, fun s n => ⟨fun h => ?_, fun h i hi => ?_, fun h a k => ?_⟩,
    fun s t x h hp => ⟨fun bs k => ?_, fun b k hk => ?_⟩⟩
  · exact runStep_wrongProtocol h (by simp [hp]) _
  · obtain ⟨f, row, -⟩ := decodeTagState_row w d p
    rw [row, runRow_wrongProtocol h (by simp [hp])]
  · exact runStep_wrongProtocol h (by simp [hp]) _
  · obtain ⟨f, row, -⟩ := decodeCrclpState_row w d p
    rw [row, runRow_wrongProtocol h (by simp [hp])]
  · obtain ⟨f, row, -⟩ := decodeTagState_row w d p
    rw [row, runRow_notSelected h hp hw]
  · obtain ⟨f, row, -⟩ := decodeCrclpState_row w d p
    rw [row, runRow_notSelected h hp hw]
  · simp [exec, execRecv, h]
  · simp only [List.mem_cons, List.not_mem_nil, or_false] at hi
    obtain rfl | rfl | rfl | rfl | rfl := hi
    · simp [exec, execMrecv, h]
    all_goals simp [exec, execQbest, execQrank, execQwmar, execQwstr, onSnapshot, h]
  · simp [exec, execSend, h]
  · simp [exec, execSend, h, hp, encodeData]
  · simp [exec, execSend, h, hp, encodeData, hk]

end Sys2Proof.Machine

/-! ### The Tag protocol: data spaces, completion, packets (R164 to R168, R173) -/

namespace Sys2Proof.Machine

/-! #### Records that agree on the configuration reset to the same -/

theorem Decoder.drst_congr {x y : Decoder} (h : y.configuration = x.configuration) (m : Option Nat) : y.drst m = x.drst m := by
  simp only [Decoder.configuration, Prod.mk.injEq] at h
  simp only [Decoder.drst, h]

theorem Decoder.completed_congr {x y : Decoder} (h : y.configuration = x.configuration) (m : Nat) : y.completed m = x.completed m :=
  Decoder.drst_congr h (some m)

theorem Decoder.aborted_congr {x y : Decoder} (h : y.configuration = x.configuration) : y.aborted = x.aborted := by
  have eth : y.eth = x.eth := congrArg Prod.snd h
  have reset := Decoder.drst_congr h (some x.eth)
  rw [← eth] at reset
  exact reset.trans (by rw [eth]; rfl)

@[simp] theorem Decoder.advanced_configuration (x : Decoder) (p e : Pulse) (n : BitVec 8) :
    (x.advanced p e n).configuration = x.configuration := rfl

/-! #### The completion of a packet (R165, R168) -/

/-- With no byte assembled after the flush bit, the completion aborts. -/
theorem Decoder.tagComplete_of_nil {x : Decoder} (h : (x.wbit 0#1).rbytes = []) :
    x.tagComplete = { dec := x.aborted, packet := none, event := none } := by
  obtain ⟨-, e⟩ | ⟨b, bs, h', -⟩ := x.tagComplete_cases
  · rw [e, Decoder.aborted_congr (x.wbit_configuration 0#1)]
  · cases h.symm.trans h'

/-- With a byte assembled, it is the packet, shifted right by one. -/
theorem Decoder.tagComplete_of_cons {x : Decoder} {b : Byte} {bs : List Byte} (h : (x.wbit 0#1).rbytes = b :: bs) :
    x.tagComplete = { dec := x.completed x.maxerr, packet := some [b >>> 1], event := none } := by
  obtain ⟨h', -⟩ | ⟨b', bs', h', e⟩ := x.tagComplete_cases
  · cases h.symm.trans h'
  · cases h.symm.trans h'
    rw [e, Decoder.completed_congr (x.wbit_configuration 0#1)]

/-- The two ends of a completion. -/
theorem Decoder.tagComplete_ends (x : Decoder) :
    x.tagComplete = { dec := x.aborted, packet := none, event := none } ∨
      ∃ b : Byte, x.tagComplete = { dec := x.completed x.maxerr, packet := some [b >>> 1], event := none } := by
  cases h : (x.wbit 0#1).rbytes with
  | nil => exact .inl (Decoder.tagComplete_of_nil h)
  | cons b bs => exact .inr ⟨b, Decoder.tagComplete_of_cons h⟩

/-! #### Everything TDEC can do (R161) -/

/-- A data space that does not end in state 17. -/
theorem Decoder.tagSpaceTest_inner (x : Decoder) (p : Pulse) {next : BitVec 8} (hn : next ≠ 17#8) :
    x.tagSpaceTest p next =
      { dec := if deviation p 2000 < x.eth then (x.advanced p 2000 next).wbit 1#1
          else if deviation p 1000 < x.eth then (x.advanced p 1000 next).wbit 0#1 else x.aborted,
        packet := none, event := none } := by
  split_ifs with one zero
  · rw [x.tagSpaceTest_one p next one, Decoder.tagArrive_inner _ (by rwa [Decoder.wbit_state])]
  · rw [x.tagSpaceTest_zero p next one zero, Decoder.tagArrive_inner _ (by rwa [Decoder.wbit_state])]
  · rw [x.tagSpaceTest_miss p next one zero]

/-- The last data space: a match goes on to the completion in the same step (R165, R167). -/
theorem Decoder.tdec_last {x : Decoder} (hx : x.state = 16#8) (p : Pulse) :
    x.tdec p =
      if deviation p 2000 < x.eth then ((x.advanced p 2000 17#8).wbit 1#1).tagComplete
      else if deviation p 1000 < x.eth then ((x.advanced p 1000 17#8).wbit 0#1).tagComplete
      else { dec := x.aborted, packet := none, event := none } := by
  rw [Decoder.tdec_space hx (by decide) (by decide) (by decide)]
  split_ifs with one zero
  · rw [x.tagSpaceTest_one p _ one, Decoder.tagArrive_last _ (by rw [Decoder.wbit_state]; rfl)]; rfl
  · rw [x.tagSpaceTest_zero p _ one zero, Decoder.tagArrive_last _ (by rw [Decoder.wbit_state]; rfl)]; rfl
  · rw [x.tagSpaceTest_miss p _ one zero]

/-- Everything TDEC can do: it advances on a preamble pulse or a mark, it advances and writes a bit, it completes the packet from state 16
or 17, or it aborts. -/
theorem Decoder.tdec_cases (x : Decoder) (p : Pulse) :
    (∃ e, deviation p e < x.eth ∧ (x.state.toNat ≤ 2 ∨ 3 ≤ x.state.toNat ∧ x.state.toNat ≤ 15 ∧ x.state.toNat % 2 = 1) ∧
        x.tdec p = { dec := x.advanced p e (x.state + 1#8), packet := none, event := none }) ∨
      (∃ e b, deviation p e < x.eth ∧ 4 ≤ x.state.toNat ∧ x.state.toNat ≤ 14 ∧ x.state.toNat % 2 = 0 ∧
        x.tdec p = { dec := (x.advanced p e (x.state + 1#8)).wbit b, packet := none, event := none }) ∨
      (∃ byte : Byte, x.state = 16#8 ∧ deviation p 2000 < x.eth ∧
        x.tdec p = { dec := x.completed (max x.maxerr (deviation p 2000)), packet := some [byte >>> 1], event := none }) ∨
      (∃ byte : Byte, x.state = 16#8 ∧ ¬ deviation p 2000 < x.eth ∧ deviation p 1000 < x.eth ∧
        x.tdec p = { dec := x.completed (max x.maxerr (deviation p 1000)), packet := some [byte >>> 1], event := none }) ∨
      (∃ byte : Byte, x.state = 17#8 ∧
        x.tdec p = { dec := x.completed x.maxerr, packet := some [byte >>> 1], event := none }) ∨
      x.tdec p = { dec := x.aborted, packet := none, event := none } := by
  have next_ne {k : Nat} (hk : x.state.toNat + 1 = k) (lt : k < 17) : x.state + 1#8 ≠ 17#8 := by
    intro e
    have := congrArg BitVec.toNat e
    simp at this
    omega
  obtain preamble | mark | space | last | completion | other :
      x.state.toNat ≤ 2 ∨ (3 ≤ x.state.toNat ∧ x.state.toNat ≤ 15 ∧ x.state.toNat % 2 = 1) ∨
        (4 ≤ x.state.toNat ∧ x.state.toNat ≤ 14 ∧ x.state.toNat % 2 = 0) ∨ x.state.toNat = 16 ∨ x.state.toNat = 17 ∨
        18 ≤ x.state.toNat := by omega
  case inl =>
    rw [Decoder.tdec_preamble rfl preamble, x.tagTest_inner p _ (next_ne rfl (by omega))]
    split_ifs with hit
    · exact .inl ⟨_, hit, .inl preamble, rfl⟩
    · simp only [or_true]
  case inr.inl =>
    obtain ⟨lo, hi, odd⟩ := mark
    rw [Decoder.tdec_mark rfl lo hi odd, x.tagTest_inner p _ (next_ne rfl (by omega))]
    split_ifs with hit
    · exact .inl ⟨_, hit, .inr ⟨lo, hi, odd⟩, rfl⟩
    · simp only [or_true]
  case inr.inr.inl =>
    obtain ⟨lo, hi, even⟩ := space
    rw [Decoder.tdec_space rfl lo (by omega) even, x.tagSpaceTest_inner p (next_ne rfl (by omega))]
    split_ifs with one zero
    · exact .inr (.inl ⟨_, _, one, lo, hi, even, rfl⟩)
    · exact .inr (.inl ⟨_, _, zero, lo, hi, even, rfl⟩)
    · simp only [or_true]
  case inr.inr.inr.inl =>
    have hx : x.state = 16#8 := BitVec.eq_of_toNat_eq last
    have ends (e : Pulse) (b : BitVec 1) :
        ((x.advanced p e 17#8).wbit b).tagComplete = { dec := x.aborted, packet := none, event := none } ∨
          ∃ byte : Byte, ((x.advanced p e 17#8).wbit b).tagComplete =
            { dec := x.completed (max x.maxerr (deviation p e)), packet := some [byte >>> 1], event := none } := by
      have same : ((x.advanced p e 17#8).wbit b).configuration = x.configuration := by simp
      have taken : ((x.advanced p e 17#8).wbit b).maxerr = max x.maxerr (deviation p e) := by rw [Decoder.wbit_maxerr]; rfl
      simpa only [Decoder.aborted_congr same, Decoder.completed_congr same, taken]
        using ((x.advanced p e 17#8).wbit b).tagComplete_ends
    rw [Decoder.tdec_last hx]
    split_ifs with one zero
    · obtain e | ⟨byte, e⟩ := ends 2000 1#1 <;> rw [e]
      · simp only [or_true]
      · exact .inr (.inr (.inl ⟨byte, hx, one, rfl⟩))
    · obtain e | ⟨byte, e⟩ := ends 1000 0#1 <;> rw [e]
      · simp only [or_true]
      · exact .inr (.inr (.inr (.inl ⟨byte, hx, one, zero, rfl⟩)))
    · simp only [or_true]
  case inr.inr.inr.inr.inl =>
    have hx : x.state = 17#8 := BitVec.eq_of_toNat_eq completion
    rw [Decoder.tdec_completion rfl hx]
    obtain e | ⟨byte, e⟩ := x.tagComplete_ends <;> rw [e]
    · simp only [or_true]
    · exact .inr (.inr (.inr (.inr (.inl ⟨byte, hx, rfl⟩))))
  case inr.inr.inr.inr.inr =>
    rw [Decoder.tdec_other rfl other, Decoder.abort_eq]
    simp only [or_true]

/-! #### The row of a state and TDEC in it (R96) -/

section
variable {s : State} {d : DecRef} {x : Decoder} (h : s.decoder? d = some x)
include h

/-- In the state of a row, the row and TDEC both end with TDEC's step. -/
theorem exec_row_and_tdec (hp : x.proto = .tag) {row : BitVec 8} (hx : x.state = row) {p : Pulse} {i : Instr}
    (hi : i = decodeTagState row d p) :
    ∀ j ∈ [i, .tdec d p], exec j s = .next (s.stepped d (x.tdec p).dec (x.tdec p).packet (x.tdec p).events) := by
  have atRow : exec i s = exec (.tdec d p) s := by rw [hi, ← hx, exec_decodeTagState h hp]
  have same : ∀ j ∈ [i, .tdec d p], exec j s = exec (.tdec d p) s := by simp [atRow]
  intro j hj
  rw [same j hj, exec_tdec h hp]

/-- A row of the error path aborts. -/
theorem runRow_abort {proto : Protocol} {row : BitVec 8} (hp : x.proto = proto) (hx : x.state = row) :
    runRow proto row d s Decoder.abort = .next (s.stepped d x.aborted none []) :=
  runRow_some Decoder.abort h hp hx

end

/-- The bits that complete the byte of a Tag decoder at rest in state 16: the decided bit at position 1, then the flush bit 0 (R165). -/
theorem Decoder.tagComplete_of_last_bit {x : Decoder} (hr : x.rbytes = []) (hi : x.bitidx = 1#3) (b : BitVec 1) :
    (x.wbit b).tagComplete =
      { dec := x.completed x.maxerr, packet := some [(x.curbyte ||| (b.setWidth 8 <<< 1)) >>> 1], event := none } := by
  have bits : ((x.wbit b).wbit 0#1).rbytes = [x.curbyte ||| (b.setWidth 8 <<< 1)] := by
    rw [x.wbit_inner b (by rw [hi]; decide), Decoder.wbit_last _ 0#1 (by simp [hi])]
    simp [hr, hi]
  rw [Decoder.tagComplete_of_cons bits, Decoder.completed_congr (x.wbit_configuration b), Decoder.wbit_maxerr]

/-! #### The statements -/

/-- Settles O25: the row that STATE selects makes TDEC's step. -/
theorem tdecRunsTheRowOfItsState : Obligations.TdecRunsTheRowOfItsState := by
  unfold Obligations.TdecRunsTheRowOfItsState
  intro s d x p h hp
  exact ⟨Instr.hasCode_of_encode rfl rfl, (exec_decodeTagState h hp p).symm⟩

/-- Settles O28: in each of the six states TDEC tests a data space that does not end in state 17. -/
theorem tagDataSpaceStates : Obligations.TagDataSpaceStates := by
  unfold Obligations.TagDataSpaceStates
  intro s d x p h hp z hz hx
  simp only [List.mem_cons, List.not_mem_nil, or_false] at hz
  obtain rfl | rfl | rfl | rfl | rfl | rfl := hz
  all_goals
    dsimp only at hx ⊢
    intro i hi
    rw [exec_row_and_tdec h hp hx rfl i hi, Decoder.tdec_space hx (by decide) (by decide) (by decide),
      x.tagSpaceTest_inner p (by decide), hx]
    split_ifs <;> rfl

/-- Settles O29: at rest in state 16 six bits are written, so the seventh and the flush bit complete the byte. -/
theorem tagLastSpaceCompletesThePacket : Obligations.TagLastSpaceCompletesThePacket := by
  unfold Obligations.TagLastSpaceCompletesThePacket
  intro s d x p h hp hx rest i hi
  obtain ⟨-, empty, sixBits, -⟩ := rest.tag hp
  have idx : x.bitidx = 1#3 := BitVec.eq_of_toNat_eq (by rw [sixBits, Decoder.tagBits, hx]; rfl)
  have taken (e : Pulse) (b : BitVec 1) : ((x.advanced p e 17#8).wbit b).tagComplete =
      { dec := x.completed (max x.maxerr (deviation p e)), packet := some [(x.curbyte ||| (b.setWidth 8 <<< 1)) >>> 1],
        event := none } :=
    Decoder.tagComplete_of_last_bit (x := x.advanced p e 17#8) empty idx b
  rw [exec_row_and_tdec h hp hx rfl i hi, Decoder.tdec_last hx, taken, taken]
  split_ifs
  · rfl
  · simp [StepResult.events]
  · rfl

/-- Settles O30: in state 17 TDEC is the completion, whatever the pulse. -/
theorem tagPulseInCompletionState : Obligations.TagPulseInCompletionState := by
  unfold Obligations.TagPulseInCompletionState
  intro s d x p h hp hx i hi
  rw [exec_row_and_tdec h hp hx rfl i hi, Decoder.tdec_completion hx rfl]
  refine ⟨fun none => ?_, fun b bs some => ?_⟩
  · rw [Decoder.tagComplete_of_nil none]; rfl
  · rw [Decoder.tagComplete_of_cons some]; rfl

/-- Settles O31: TDEC and the six rows of the error path abort. -/
theorem tagOtherStatesAbort : Obligations.TagOtherStatesAbort := by
  unfold Obligations.TagOtherStatesAbort
  intro s d x p h hp
  refine ⟨fun other => ?_, fun v hx => ?_, fun v hx => ?_, fun v hx => ?_, fun v hx => ?_, fun v hx => ?_, fun v hx => ?_⟩
  · rw [exec_tdec h hp, Decoder.tdec_other rfl other]; rfl
  all_goals exact runRow_abort h hp hx

/-- Settles O32: read off everything TDEC can do; a packet is a byte shifted right by one. -/
theorem tdecPacketsAreOneSevenBitByte : Obligations.TdecPacketsAreOneSevenBitByte := by
  unfold Obligations.TdecPacketsAreOneSevenBitByte
  intro s d x p h hp
  have clear (byte : Byte) : (byte >>> 1).getLsbD 7 = false := by simp
  rw [exec_tdec h hp]
  obtain ⟨e, -, -, eq⟩ | ⟨e, b, -, -, -, -, eq⟩ | ⟨byte, hx, one, eq⟩ | ⟨byte, hx, notOne, zero, eq⟩ | ⟨byte, hx, eq⟩ | eq :=
    x.tdec_cases p
  all_goals rw [eq]
  · exact ⟨_, _, rfl, fun k hk => (nomatch hk), fun _ => .inl rfl⟩
  · exact ⟨_, _, rfl, fun k hk => (nomatch hk), fun _ => .inl (by rw [Decoder.wbit_lasterr]; rfl)⟩
  · refine ⟨_, _, rfl, ?_, fun absent => (nomatch absent)⟩
    rintro k ⟨⟩
    exact ⟨⟨_, rfl, clear byte⟩, .inr (.inl ⟨hx, one, rfl⟩)⟩
  · refine ⟨_, _, rfl, ?_, fun absent => (nomatch absent)⟩
    rintro k ⟨⟩
    exact ⟨⟨_, rfl, clear byte⟩, .inr (.inr ⟨hx, notOne, zero, rfl⟩)⟩
  · refine ⟨_, _, rfl, ?_, fun absent => (nomatch absent)⟩
    rintro k ⟨⟩
    exact ⟨⟨_, rfl, clear byte⟩, .inl ⟨hx, rfl⟩⟩
  · exact ⟨_, _, rfl, fun k hk => (nomatch hk), fun _ => .inr rfl⟩

/-! ### The tag byte and the codec's round trips (R91, R93, R172) -/

theorem tagUnpack_legal (b : Byte) : (tagUnpack b).legal = true := tagFields_legal _ _ _

/-- The fields of a byte make up its bits 6 to 0. -/
theorem tagPack_tagUnpack (b : Byte) : tagPack (tagUnpack b) = b &&& 0x7F#8 := by
  have low : (b &&& 0x7F#8).toNat = b.toNat % 2 ^ 7 := by rw [BitVec.toNat_and]; exact Nat.and_two_pow_sub_one_eq_mod b.toNat 7
  have sum : (tagUnpack b).team * 32 + ((tagUnpack b).player - 1) * 4 + ((tagUnpack b).damage - 1) = ((b.toNat % 128 : Nat) : Int) := by
    simp only [tagUnpack, tagFields, tagTeam_toNat, tagPlayer_toNat, tagDamage_toNat]
    omega
  rw [tagPack_of_legal (tagUnpack_legal b), sum, BitVec.ofInt_natCast]
  refine BitVec.eq_of_toNat_eq ?_
  rw [low, BitVec.toNat_ofNat]
  omega

/-- Legal TagData is packed below 0x80, as its fields at their places. -/
theorem tagPack_toNat {f : TagData} (h : f.legal = true) :
    ((tagPack f).toNat : Int) = f.team * 32 + (f.player - 1) * 4 + (f.damage - 1) := by
  have range := f.legal_iff.mp h
  rw [tagPack_of_legal h, BitVec.toNat_ofInt]
  omega

theorem tagUnpack_tagPack {f : TagData} (h : f.legal = true) : tagUnpack (tagPack f) = f := by
  have range := f.legal_iff.mp h
  have packed := tagPack_toNat h
  obtain ⟨team, player, damage⟩ := f
  simp only [tagUnpack, tagFields, tagTeam_toNat, tagPlayer_toNat, tagDamage_toNat, TagData.mk.injEq]
  dsimp only at range packed
  omega

/-- The word of a tag byte, as its fields at their places. -/
theorem encode_tagByte_toNat (tt : BitVec 2) (ppp : BitVec 3) (dd : BitVec 2) :
    (encode (.tagByte tt ppp dd)).word.toNat = tt.toNat * 32 + ppp.toNat * 4 + dd.toNat := by
  revert tt ppp dd; decide

/-- TGUP reads from the word of a tag byte the fields it was written with. -/
theorem tagUnpack_encode_tagByte (tt : BitVec 2) (ppp : BitVec 3) (dd : BitVec 2) :
    tagUnpack (encode (.tagByte tt ppp dd)).word = tagFields tt ppp dd := by
  have word := encode_tagByte_toNat tt ppp dd
  have team := tt.isLt
  have player := ppp.isLt
  have damage := dd.isLt
  simp only [tagUnpack, tagFields, tagTeam_toNat, tagPlayer_toNat, tagDamage_toNat, TagData.mk.injEq]
  omega

/-- Settles O36: the tag byte is the packing of its fields, and its bit 7 is 0. -/
theorem tagByteStandsForItsFields : Obligations.TagByteStandsForItsFields := by
  unfold Obligations.TagByteStandsForItsFields
  intro s tt ppp dd
  have fields := tagUnpack_encode_tagByte tt ppp dd
  refine ⟨rfl, encode_tagByte_toNat tt ppp dd, ?tgup, ?tgpk⟩
  case tgup => rw [exec_tgup, fields]; rfl
  case tgpk =>
    have legal := tagFields_legal tt ppp dd
    have packed : tagPack (tagFields tt ppp dd) = (encode (.tagByte tt ppp dd)).word := by
      refine BitVec.eq_of_toNat_eq (Int.natCast_inj.mp ?_)
      rw [tagPack_toNat legal, encode_tagByte_toNat]
      simp only [tagFields]
      omega
    rw [← packed]
    exact exec_tgpk_legal s legal

/-- Settles O37: packing and unpacking are inverse to each other, but for bit 7. -/
theorem tagCodecRoundTrips : Obligations.TagCodecRoundTrips := by
  unfold Obligations.TagCodecRoundTrips
  refine ⟨fun s f legal => ⟨tagPack f, ?_, exec_tgpk_legal s legal, ?_⟩, fun s b => ⟨tagUnpack b, exec_tgup s b, ?_⟩⟩
  · have range := f.legal_iff.mp legal
    have packed := tagPack_toNat legal
    omega
  · rw [exec_tgup, tagUnpack_tagPack legal]
  · rw [exec_tgpk_legal s (tagUnpack_legal b), tagPack_tagUnpack]

end Sys2Proof.Machine

/-! ### The CRCLP protocol: data, lead-out, CRC (R195 to R199) -/

namespace Sys2Proof.Machine

/-! #### The step that CDEC makes in state 2 (R195, R196) -/

/-- The lead-out with fewer than two bytes held. -/
theorem Decoder.cdecLeadOut_short {c : Params} {x : Decoder} (h : x.rbytes.length < 2) :
    x.cdecLeadOut c = { dec := x.aborted, packet := none, event := some .short } := by
  simp [Decoder.cdecLeadOut, h]

/-- The lead-out with a payload and a last byte held: the last byte decides. -/
theorem Decoder.cdecLeadOut_checked {c : Params} {x : Decoder} {payload : List Byte} {rx : Byte} (h : x.rbytes = payload ++ [rx])
    (hp : payload ≠ []) :
    x.cdecLeadOut c =
      if crc8 c payload = rx then { dec := x.completed x.maxerr, packet := some payload, event := none }
      else { dec := x.aborted, packet := none, event := some .crc } := by
  have long : ¬ payload.length + 1 < 2 := by
    have := List.length_pos_iff.mpr hp
    omega
  simp only [Decoder.cdecLeadOut, h, List.length_append, List.length_singleton, if_neg long, List.dropLast_concat, List.getLastD_concat,
    Decoder.complete_eq, Decoder.abortCorrupt_eq]

/-- A pulse that is no lead-out (R195). -/
theorem Decoder.cdecData_bit {c : Params} {x : Decoder} {p : Pulse} (hx : x.state = 2#8) (h : ¬ deviation p 5000 < x.eth) :
    x.cdecData c p =
      { dec := if deviation p 1500 < x.eth then (x.advanced p 1500 2#8).wbit 1#1
          else if deviation p 500 < x.eth then (x.advanced p 500 2#8).wbit 0#1 else x.aborted,
        packet := none, event := none } := by
  have stays (e : Pulse) : x.advanced p e 2#8 = { x with maxerr := max x.maxerr (deviation p e) } := by
    simp only [Decoder.advanced, ← hx]
  rw [stays, stays]
  obtain ⟨leadOut, -⟩ | ⟨-, one, eq⟩ | ⟨-, notOne, zero, eq⟩ | ⟨-, notOne, notZero, eq⟩ := x.cdecData_cases c p
  · exact absurd leadOut h
  · rw [eq, if_pos one]
  · rw [eq, if_neg notOne, if_pos zero]
  · rw [eq, if_neg notOne, if_neg notZero]

/-- A lead-out (R196). -/
theorem Decoder.cdecData_leadOut {x : Decoder} {p : Pulse} (c : Params) (h : deviation p 5000 < x.eth) :
    x.cdecData c p = (x.advanced p 5000 x.state).cdecLeadOut c := by
  obtain ⟨-, eq⟩ | ⟨miss, -⟩ | ⟨miss, -⟩ | ⟨miss, -⟩ := x.cdecData_cases c p
  · exact eq
  all_goals exact absurd h miss

/-! #### Everything CDEC can do (R192) -/

/-- Everything CDEC can do: in state 0 it discards the pulse; it advances on a header pulse; it writes a bit; it completes at the lead-out;
or it aborts. -/
theorem Decoder.cdec_cases (c : Params) (x : Decoder) (p : Pulse) :
    (x.state = 0#8 ∧ x.cdec c p = { dec := x, packet := none, event := none }) ∨
      (x.state = 0#8 ∧ deviation p 4000 < x.eth ∧ x.cdec c p = { dec := x.advanced p 4000 1#8, packet := none, event := none }) ∨
      (x.state = 1#8 ∧ deviation p 3000 < x.eth ∧ x.cdec c p = { dec := x.advanced p 3000 2#8, packet := none, event := none }) ∨
      (∃ e b, x.state = 2#8 ∧ deviation p e < x.eth ∧
        x.cdec c p = { dec := (x.advanced p e 2#8).wbit b, packet := none, event := none }) ∨
      (∃ payload, x.state = 2#8 ∧ deviation p 5000 < x.eth ∧
        x.cdec c p = { dec := x.completed (max x.maxerr (deviation p 5000)), packet := some payload, event := none }) ∨
      (∃ ev, x.cdec c p = { dec := x.aborted, packet := none, event := ev }) := by
  obtain seek | header | data | other : x.state = 0#8 ∨ x.state = 1#8 ∨ x.state = 2#8 ∨ 3 ≤ x.state.toNat := by
    simp only [← BitVec.toNat_inj, BitVec.toNat_ofNat]
    omega
  case inl =>
    rw [Decoder.cdec_seek seek]
    obtain ⟨hit, eq⟩ | ⟨-, eq⟩ := x.cdecSeek_cases p
    · exact .inr (.inl ⟨seek, hit, eq⟩)
    · exact .inl ⟨seek, eq⟩
  case inr.inl =>
    rw [Decoder.cdec_header header]
    obtain ⟨hit, eq⟩ | ⟨-, eq⟩ := x.cdecHeader_cases p
    · exact .inr (.inr (.inl ⟨header, hit, eq⟩))
    · exact .inr (.inr (.inr (.inr (.inr ⟨none, eq⟩))))
  case inr.inr.inl =>
    rw [Decoder.cdec_data data rfl]
    by_cases leadOut : deviation p 5000 < x.eth
    · rw [x.cdecData_leadOut c leadOut]
      obtain ⟨-, eq⟩ | ⟨payload, -, -, -, -, eq⟩ | ⟨-, -, -, -, -, eq⟩ := (x.advanced p 5000 x.state).cdecLeadOut_cases c
      · exact .inr (.inr (.inr (.inr (.inr ⟨_, eq⟩))))
      · exact .inr (.inr (.inr (.inr (.inl ⟨payload, data, leadOut, eq⟩))))
      · exact .inr (.inr (.inr (.inr (.inr ⟨_, eq⟩))))
    · rw [Decoder.cdecData_bit data leadOut]
      split_ifs with one zero
      · exact .inr (.inr (.inr (.inl ⟨1500, 1#1, data, one, rfl⟩)))
      · exact .inr (.inr (.inr (.inl ⟨500, 0#1, data, zero, rfl⟩)))
      · exact .inr (.inr (.inr (.inr (.inr ⟨none, rfl⟩))))
  case inr.inr.inr =>
    rw [Decoder.cdec_other rfl other]
    exact .inr (.inr (.inr (.inr (.inr ⟨none, rfl⟩))))

/-! #### The statements -/

/-- Settles O41: the three tests of state 2 that are left once the lead-out is excluded. -/
theorem crclpBitPulses : Obligations.CrclpBitPulses := by
  unfold Obligations.CrclpBitPulses
  intro s d x p h hp hx miss i hi
  rw [exec_row_and_cdec h hp hx rfl (Decoder.cdec_data hx rfl s.params p) i hi, Decoder.cdecData_bit hx miss]
  split_ifs <;> rfl

/-- Settles O42: a matched lead-out goes to the length check and, with two bytes or more, to the CRC check. -/
theorem crclpLeadOut : Obligations.CrclpLeadOut := by
  unfold Obligations.CrclpLeadOut
  intro s d x p h hp hx hit i hi
  rw [exec_row_and_cdec h hp hx rfl (Decoder.cdec_data hx rfl s.params p) i hi, x.cdecData_leadOut s.params hit]
  refine ⟨fun short => ?_, fun payload rx bytes hne => ?_⟩
  · rw [Decoder.cdecLeadOut_short (x := x.advanced p 5000 x.state) short]; rfl
  · rw [Decoder.cdecLeadOut_checked (x := x.advanced p 5000 x.state) bytes hne]
    split_ifs <;> rfl

/-- Settles O43: CDEC and the seven rows of the error path abort. -/
theorem crclpOtherStatesAbort : Obligations.CrclpOtherStatesAbort := by
  unfold Obligations.CrclpOtherStatesAbort
  intro s d x p h hp
  refine ⟨fun other => ?_, fun hx => ?_, fun v hx => ?_, fun v hx => ?_, fun v hx => ?_, fun v hx => ?_, fun v hx => ?_, fun v hx => ?_⟩
  · rw [exec_cdec h hp, Decoder.cdec_other rfl other]; rfl
  all_goals exact runRow_abort h hp hx

/-! #### The CRC (R197) -/

/-- A 1 leaves bit 7 of the register exactly when the register is 128 or more. -/
theorem crcShift_eq (r : Byte) : crcShift r = if r.toNat < 128 then r <<< 1 else (r <<< 1) ^^^ 0x1D#8 := by
  revert r; decide

/-- The shift backwards: the polynomial is odd, so bit 0 says whether it was XORed in. -/
def crcUnshift (r : Byte) : Byte := if r.getLsbD 0 then ((r ^^^ Config.crcPoly) >>> 1) ||| 0x80#8 else r >>> 1

theorem crcUnshift_crcShift : Function.LeftInverse crcUnshift crcShift := by
  unfold Function.LeftInverse; decide

/-- Different bytes leave different registers, from one register. -/
theorem crcByte_injective (r : Byte) : Function.Injective (crcByte r) := by
  have shift := crcUnshift_crcShift.injective
  intro x y h
  have shifted : r ^^^ x = r ^^^ y := shift (shift (shift (shift (shift (shift (shift (shift h)))))))
  exact (BitVec.xor_right_inj r).mp shifted

/-- Different registers stay different through one byte. -/
theorem crcByte_injective_register (x : Byte) : Function.Injective (crcByte · x) := by
  intro r r' h
  have swap (q : Byte) : crcByte q x = crcByte x q := by simp only [crcByte, BitVec.xor_comm]
  exact crcByte_injective x (by rw [← swap, ← swap]; exact h)

/-- Different registers stay different through any bytes. -/
theorem foldl_crcByte_injective (bytes : List Byte) : Function.Injective (bytes.foldl crcByte) := by
  induction bytes with
  | nil => exact Function.injective_id
  | cons x xs ih => exact fun r r' h => crcByte_injective_register x (ih h)

/-- Settles O44: the model's shift is the statement's, and eight shifts are its iteration. -/
theorem crc8IsBytewiseLeftShift : Obligations.Crc8IsBytewiseLeftShift := by
  unfold Obligations.Crc8IsBytewiseLeftShift
  intro s bytes
  exact ⟨crcShift, crcShift_eq, Instr.hasCode_of_encode rfl rfl, rfl⟩

/-- Settles O45: the two registers differ right after the byte, and every later byte and the final XOR keep them apart. -/
theorem crcDetectsOneByteErrors : Obligations.CrcDetectsOneByteErrors := by
  unfold Obligations.CrcDetectsOneByteErrors
  intro c before after x y hne h
  have folded := (BitVec.xor_left_inj c.crcXorOut).mp h
  rw [List.foldl_append, List.foldl_append, List.foldl_append, List.foldl_append] at folded
  exact hne (crcByte_injective _ (foldl_crcByte_injective after folded))

end Sys2Proof.Machine

/-! ### The decoder engine: the window, the byte, the strength (R132, R136, R137, R152) -/

namespace Sys2Proof.Machine

/-! #### The window (R132) -/

/-- The window of an expected duration, without subtraction. -/
theorem deviation_lt_iff (o e eth : Nat) : deviation o e < eth ↔ 1 ≤ eth ∧ e + 1 ≤ o + eth ∧ o + 1 ≤ e + eth := by
  unfold deviation; omega

/-- Settles O17: MATCH compares the deviation with the threshold, which is the window. -/
theorem matchWindow : Obligations.MatchWindow := by
  unfold Obligations.MatchWindow
  intro s d x o e h
  simpa only [deviation_lt_iff] using exec_matchOp_response h o e

/-! #### Writing bits in a row (R152) -/

/-- WBIT of each of a list of bits, first to last. -/
def Decoder.writeBits (x : Decoder) (bits : List Bool) : Decoder := bits.foldl (fun y b => y.wbit (BitVec.ofBool b)) x

@[simp] theorem Decoder.writeBits_nil (x : Decoder) : x.writeBits [] = x := rfl

@[simp] theorem Decoder.writeBits_cons (x : Decoder) (b : Bool) (bits : List Bool) :
    x.writeBits (b :: bits) = (x.wbit (BitVec.ofBool b)).writeBits bits := rfl

theorem Decoder.writeBits_append (x : Decoder) (bits more : List Bool) : x.writeBits (bits ++ more) = (x.writeBits bits).writeBits more :=
  List.foldl_append

/-- The bits of a byte, most significant first. -/
def byteBits (b : Byte) : List Bool := [7, 6, 5, 4, 3, 2, 1, 0].map b.getLsbD

/-- From an empty byte, the eight bits of a byte append it. -/
theorem Decoder.writeBits_byteBits {x : Decoder} (hi : x.bitidx = 7#3) (hc : x.curbyte = 0x00#8) (b : Byte) :
    x.writeBits (byteBits b) = { x with rbytes := x.rbytes ++ [b] } := by
  obtain ⟨proto, eth, state, rbytes, bitidx, curbyte, maxerr, lasterr⟩ := x
  obtain rfl : bitidx = 7#3 := hi
  obtain rfl : curbyte = 0x00#8 := hc
  have joined : ∀ b : Byte, ([7, 6, 5, 4, 3, 2, 1, 0].foldl (fun (cur : Byte) i => cur ||| ((BitVec.ofBool (b.getLsbD i)).setWidth 8 <<< i))
      0x00#8) = b := by decide
  simpa [byteBits, Decoder.wbit, Decoder.append] using joined b

/-- Settles O19: the eight calls write the bits of the byte. -/
theorem eightWbitsAppendTheByte : Obligations.EightWbitsAppendTheByte := by
  unfold Obligations.EightWbitsAppendTheByte
  intro x b hi hc
  exact Decoder.writeBits_byteBits hi hc b

/-! #### The strength (R136, R137) -/

theorem strengthOf_mem_unit (eth v : Nat) : 0 ≤ strengthOf eth v ∧ strengthOf eth v ≤ 1 := by
  unfold strengthOf clamp
  split_ifs
  · exact ⟨zero_le_one, le_refl 1⟩
  · exact ⟨le_max_left _ _, max_le zero_le_one (min_le_left _ _)⟩

/-- Under a threshold that divides, every margin has the strength of the clamped formula, margin 0 too. -/
theorem strengthOf_eq {T : Nat} (hT : 1 ≤ T) (v : Nat) : strengthOf T v = max 0 (min 1 (13 / 10 - (v : Rat) / (T : Rat))) := by
  by_cases hv : v = 0
  · subst hv
    rw [strengthOf_zero]
    norm_num
  · exact strengthOf_formula hv (by omega)

/-- Settles O23: whatever the strength is, it is clamped. -/
theorem rdstrCompletesUnderThresholdZero : Obligations.RdstrCompletesUnderThresholdZero := by
  unfold Obligations.RdstrCompletesUnderThresholdZero
  intro s d x v h hv _ _
  obtain ⟨nonneg, le_one⟩ := strengthOf_mem_unit x.eth v
  exact ⟨strengthOf x.eth v, nonneg, le_one, by rw [exec_rdstr h, Decoder.strength_some hv]⟩

/-- Settles O24: the formula is `13/10 - v/T`, clamped at 0 and at 1. -/
theorem strengthIsPiecewiseLinear : Obligations.StrengthIsPiecewiseLinear := by
  unfold Obligations.StrengthIsPiecewiseLinear
  intro T v hT
  have pos : (0 : Rat) < T := by exact_mod_cast hT
  have ratio_le (a b : Nat) (hb : 0 < b) (h : b * v ≤ a * T) : (v : Rat) / T ≤ a / b := by
    rw [div_le_div_iff₀ pos (by exact_mod_cast hb)]
    exact_mod_cast (by linarith : v * b ≤ a * T)
  have le_ratio (a b : Nat) (hb : 0 < b) (h : a * T ≤ b * v) : (a : Rat) / b ≤ (v : Rat) / T := by
    rw [div_le_div_iff₀ (by exact_mod_cast hb) pos]
    exact_mod_cast (by linarith : a * T ≤ v * b)
  refine ⟨fun full => ?_, fun above below => ?_, fun zero => ?_, ?_, fun recorded => ?_⟩
  · have := ratio_le 3 10 (by decide) full
    rw [strengthOf_eq hT, min_eq_left (by push_cast at this; linarith), max_eq_right zero_le_one]
  · have lo := le_ratio 3 10 (by decide) above.le
    have hi := ratio_le 13 10 (by decide) below.le
    push_cast at lo hi
    rw [strengthOf_eq hT, min_eq_right (by linarith), max_eq_right (by linarith)]
  · have := le_ratio 13 10 (by decide) zero
    push_cast at this
    rw [strengthOf_eq hT, min_eq_right (by linarith), max_eq_left (by linarith)]
  · rw [strengthOf_eq hT, div_self pos.ne']
    norm_num
  · have := ratio_le 1 1 (by decide) (by omega)
    push_cast at this
    rw [strengthOf_eq hT]
    exact le_max_of_le_right (le_min (by norm_num) (by linarith))

end Sys2Proof.Machine

/-! ### Whole frames under jitter (R165, R172, R196, R201) -/

namespace Sys2Proof.Machine

/-! #### Feeding pulses (R114) -/

theorem Decoder.feed_nil (c : Params) (x : Decoder) : x.feed c [] = (x, []) := rfl

theorem Decoder.feed_cons (c : Params) (x : Decoder) (p : Pulse) (ps : List Pulse) :
    x.feed c (p :: ps) = (((x.step c p).dec.feed c ps).1, (x.step c p).packet :: ((x.step c p).dec.feed c ps).2) := rfl

/-- A pulse that the decoder takes in without a packet. -/
theorem Decoder.feed_cons_of_step {c : Params} {x y : Decoder} {p : Pulse} {k : Option Packet} {ev : Option Corrupt}
    (h : x.step c p = { dec := y, packet := k, event := ev }) (ps : List Pulse) :
    x.feed c (p :: ps) = ((y.feed c ps).1, k :: (y.feed c ps).2) := by
  rw [Decoder.feed_cons, h]

theorem Decoder.feed_append (c : Params) (x : Decoder) (ps qs : List Pulse) :
    x.feed c (ps ++ qs) = (((x.feed c ps).1.feed c qs).1, (x.feed c ps).2 ++ ((x.feed c ps).1.feed c qs).2) := by
  induction ps generalizing x with
  | nil => rfl
  | cons p ps ih => simp only [List.cons_append, Decoder.feed_cons, ih]

theorem Decoder.step_tag {x : Decoder} (h : x.proto = .tag) (c : Params) (p : Pulse) : x.step c p = x.tdec p := by
  simp [Decoder.step, h]

/-- A pulse that TDEC takes in. -/
theorem Decoder.feed_cons_of_tdec {x y : Decoder} {p : Pulse} {k : Option Packet} {ev : Option Corrupt}
    (h : x.tdec p = { dec := y, packet := k, event := ev }) (tag : x.proto = .tag) (c : Params) (ps : List Pulse) :
    x.feed c (p :: ps) = ((y.feed c ps).1, k :: (y.feed c ps).2) :=
  Decoder.feed_cons_of_step ((Decoder.step_tag tag c p).trans h) ps

theorem Decoder.step_crclp {x : Decoder} (h : x.proto = .crclp) (c : Params) (p : Pulse) : x.step c p = x.cdec c p := by
  simp [Decoder.step, h]

/-! #### Pulses near a frame, and the worst of their deviations (R16, R26) -/

theorem Near.split {eth : Nat} {ps front back : List Pulse} (h : Near eth ps (front ++ back)) :
    ∃ qs rs, ps = qs ++ rs ∧ Near eth qs front ∧ Near eth rs back :=
  ⟨_, _, (List.take_append_drop front.length ps).symm, List.forall₂_take_append ps front back h, List.forall₂_drop_append ps front back h⟩

theorem Near.uncons {eth : Nat} {ps nominal : List Pulse} {e : Pulse} (h : Near eth ps (e :: nominal)) :
    ∃ p qs, ps = p :: qs ∧ deviation p e < eth ∧ Near eth qs nominal := by
  obtain ⟨p, qs, hit, near, eq⟩ := List.forall₂_cons_right_iff.mp h
  exact ⟨p, qs, eq, hit, near⟩

theorem Near.eq_nil {eth : Nat} {ps : List Pulse} (h : Near eth ps []) : ps = [] := List.forall₂_nil_right_iff.mp h

theorem Near.length_eq {eth : Nat} {ps nominal : List Pulse} (h : Near eth ps nominal) : ps.length = nominal.length :=
  List.Forall₂.length_eq h

@[simp] theorem worstDeviation_nil : worstDeviation [] [] = 0 := rfl

@[simp] theorem worstDeviation_cons (p e : Pulse) (ps nominal : List Pulse) :
    worstDeviation (p :: ps) (e :: nominal) = max (deviation p e) (worstDeviation ps nominal) := by
  simp only [worstDeviation, List.zipWith_cons_cons, List.foldl_cons]
  rw [Nat.max_comm 0, List.foldl_assoc]

theorem worstDeviation_append {qs front : List Pulse} (h : qs.length = front.length) (rs back : List Pulse) :
    worstDeviation (qs ++ rs) (front ++ back) = max (worstDeviation qs front) (worstDeviation rs back) := by
  induction qs generalizing front with
  | nil =>
    obtain rfl := List.length_eq_zero_iff.mp h.symm
    simp
  | cons q qs ih =>
    obtain ⟨f, front, rfl⟩ := List.exists_cons_of_length_eq_add_one h.symm
    simp only [List.cons_append, worstDeviation_cons, ih (Nat.succ.inj h), max_assoc]

/-! #### Pulses that are taken in (R130): the worst deviation and the new STATE -/

/-- A decoder that has matched pulses of worst deviation `m` and moved to state `n`. -/
def Decoder.accepted (x : Decoder) (n : BitVec 8) (m : Nat) : Decoder := { x with maxerr := max x.maxerr m, state := n }

theorem Decoder.advanced_eq_accepted (x : Decoder) (p e : Pulse) (n : BitVec 8) : x.advanced p e n = x.accepted n (deviation p e) := rfl

@[simp] theorem Decoder.accepted_proto (x : Decoder) (n : BitVec 8) (m : Nat) : (x.accepted n m).proto = x.proto := rfl
@[simp] theorem Decoder.accepted_eth (x : Decoder) (n : BitVec 8) (m : Nat) : (x.accepted n m).eth = x.eth := rfl
@[simp] theorem Decoder.accepted_state (x : Decoder) (n : BitVec 8) (m : Nat) : (x.accepted n m).state = n := rfl
@[simp] theorem Decoder.accepted_rbytes (x : Decoder) (n : BitVec 8) (m : Nat) : (x.accepted n m).rbytes = x.rbytes := rfl
@[simp] theorem Decoder.accepted_bitidx (x : Decoder) (n : BitVec 8) (m : Nat) : (x.accepted n m).bitidx = x.bitidx := rfl
@[simp] theorem Decoder.accepted_curbyte (x : Decoder) (n : BitVec 8) (m : Nat) : (x.accepted n m).curbyte = x.curbyte := rfl
@[simp] theorem Decoder.accepted_maxerr (x : Decoder) (n : BitVec 8) (m : Nat) : (x.accepted n m).maxerr = max x.maxerr m := rfl
@[simp] theorem Decoder.accepted_configuration (x : Decoder) (n : BitVec 8) (m : Nat) :
    (x.accepted n m).configuration = x.configuration := rfl

@[simp] theorem Decoder.accepted_accepted (x : Decoder) (n n' : BitVec 8) (m m' : Nat) :
    (x.accepted n m).accepted n' m' = x.accepted n' (max m m') := by
  simp only [Decoder.accepted, max_assoc]

theorem Decoder.accepted_self {x : Decoder} {n : BitVec 8} (h : x.state = n) : x.accepted n 0 = x := by
  simp only [Decoder.accepted, Nat.max_zero, ← h]

/-- Taking pulses in and writing a bit do not meet. -/
theorem Decoder.accepted_wbit (x : Decoder) (b : BitVec 1) (n : BitVec 8) (m : Nat) :
    (x.wbit b).accepted n m = (x.accepted n m).wbit b := by
  by_cases h : x.bitidx = 0#3 <;> simp [Decoder.wbit, Decoder.accepted, Decoder.append, h]

@[simp] theorem Decoder.writeBits_configuration (x : Decoder) (bits : List Bool) : (x.writeBits bits).configuration = x.configuration := by
  induction bits generalizing x with
  | nil => rfl
  | cons b bits ih => rw [Decoder.writeBits_cons, ih, Decoder.wbit_configuration]

@[simp] theorem Decoder.writeBits_state (x : Decoder) (bits : List Bool) : (x.writeBits bits).state = x.state := by
  induction bits generalizing x with
  | nil => rfl
  | cons b bits ih => rw [Decoder.writeBits_cons, ih, Decoder.wbit_state]

@[simp] theorem Decoder.writeBits_maxerr (x : Decoder) (bits : List Bool) : (x.writeBits bits).maxerr = x.maxerr := by
  induction bits generalizing x with
  | nil => rfl
  | cons b bits ih => rw [Decoder.writeBits_cons, ih, Decoder.wbit_maxerr]

theorem Decoder.writeBits_proto (x : Decoder) (bits : List Bool) : (x.writeBits bits).proto = x.proto :=
  congrArg Prod.fst (x.writeBits_configuration bits)

theorem Decoder.writeBits_eth (x : Decoder) (bits : List Bool) : (x.writeBits bits).eth = x.eth :=
  congrArg Prod.snd (x.writeBits_configuration bits)

/-! #### A Tag frame, symbol by symbol -/

/-- The space of a Tag data bit (R160). -/
def tagSpace (b : Bool) : Pulse := if b then Config.tagSpace1 else Config.tagSpace0

/-- The two pulses of a Tag data bit. -/
def tagBitPulses (b : Bool) : List Pulse := [Config.tagMark, tagSpace b]

theorem state_succ (k : Nat) : BitVec.ofNat 8 k + 1#8 = BitVec.ofNat 8 (k + 1) := by
  simp [BitVec.ofNat_add]

theorem state_succ_ne {k : Nat} (hk : k < 16) : BitVec.ofNat 8 (k + 1) ≠ 17#8 := by
  simp only [ne_eq, ← BitVec.toNat_inj, BitVec.toNat_ofNat]
  omega

section
variable {x : Decoder} {p : Pulse}

/-- Under a threshold of 500 the windows of the two spaces do not meet (R164). -/
theorem Decoder.tagSpaceTest_bit (eth : x.eth = 500) {b : Bool} (hit : deviation p (tagSpace b) < x.eth) (n : BitVec 8) :
    x.tagSpaceTest p n = ((x.accepted n (deviation p (tagSpace b))).wbit (BitVec.ofBool b)).tagArrive := by
  cases b with
  | true => exact x.tagSpaceTest_one p n hit
  | false =>
    have far : ¬ deviation p 2000 < x.eth := by
      change deviation p 1000 < x.eth at hit
      rw [deviation_lt_iff] at hit ⊢
      omega
    exact x.tagSpaceTest_zero p n far hit

variable {k : Nat} (hx : x.state = BitVec.ofNat 8 k)
include hx

/-- A preamble pulse inside its window (R162). -/
theorem Decoder.tdec_preamble_hit (hk : k ≤ 2) (hit : deviation p (Config.tagPreamble.getD k 0) < x.eth) :
    x.tdec p =
      { dec := x.accepted (BitVec.ofNat 8 (k + 1)) (deviation p (Config.tagPreamble.getD k 0)), packet := none, event := none } := by
  have index : (BitVec.ofNat 8 k).toNat = k := by rw [BitVec.toNat_ofNat]; omega
  rw [Decoder.tdec_preamble hx (by omega), index, state_succ, x.tagTest_inner p _ (state_succ_ne (by omega)), if_pos hit]
  rfl

/-- A mark inside its window (R163). -/
theorem Decoder.tdec_mark_hit (lo : 3 ≤ k) (hi : k ≤ 15) (odd : k % 2 = 1) (hit : deviation p Config.tagMark < x.eth) :
    x.tdec p = { dec := x.accepted (BitVec.ofNat 8 (k + 1)) (deviation p Config.tagMark), packet := none, event := none } := by
  have index : (BitVec.ofNat 8 k).toNat = k := by rw [BitVec.toNat_ofNat]; omega
  rw [Decoder.tdec_mark hx (by omega) (by omega) (by omega), state_succ, x.tagTest_inner p _ (state_succ_ne (by omega)), if_pos hit]
  rfl

/-- A space inside its window (R164). -/
theorem Decoder.tdec_space_hit (lo : 4 ≤ k) (hi : k ≤ 16) (even : k % 2 = 0) (eth : x.eth = 500) {b : Bool}
    (hit : deviation p (tagSpace b) < x.eth) :
    x.tdec p = ((x.accepted (BitVec.ofNat 8 (k + 1)) (deviation p (tagSpace b))).wbit (BitVec.ofBool b)).tagArrive := by
  have index : (BitVec.ofNat 8 k).toNat = k := by rw [BitVec.toNat_ofNat]; omega
  rw [Decoder.tdec_space hx (by omega) (by omega) (by omega), Decoder.tagSpaceTest_bit eth hit, state_succ]

end

section
variable (c : Params) {x : Decoder} (tag : x.proto = .tag)
include tag

/-- The preamble moves a Tag decoder from state 0 to state 3. -/
theorem Decoder.feed_tagPreamble (hx : x.state = 0#8) {ps : List Pulse} (near : Near x.eth ps Config.tagPreamble) :
    x.feed c ps = (x.accepted 3#8 (worstDeviation ps Config.tagPreamble), List.replicate 3 none) := by
  obtain ⟨p0, ps, rfl, hit0, near⟩ := near.uncons
  obtain ⟨p1, ps, rfl, hit1, near⟩ := near.uncons
  obtain ⟨p2, ps, rfl, hit2, near⟩ := near.uncons
  obtain rfl := near.eq_nil
  set y := x.accepted 1#8 (deviation p0 3000) with hy
  set z := y.accepted 2#8 (deviation p1 6000) with hz
  have step0 : x.tdec p0 = { dec := y, packet := none, event := none } :=
    Decoder.tdec_preamble_hit (k := 0) hx (by decide) hit0
  have step1 : y.tdec p1 = { dec := z, packet := none, event := none } :=
    Decoder.tdec_preamble_hit (x := y) (k := 1) rfl (by decide) hit1
  have step2 : z.tdec p2 = { dec := z.accepted 3#8 (deviation p2 3000), packet := none, event := none } :=
    Decoder.tdec_preamble_hit (x := z) (k := 2) rfl (by decide) hit2
  rw [Decoder.feed_cons_of_tdec step0 tag, Decoder.feed_cons_of_tdec step1 tag, Decoder.feed_cons_of_tdec step2 tag, Decoder.feed_nil]
  simp [hz, hy, Config.tagPreamble, List.replicate]

/-- The pulses of data bits before the last write the bits, two states each. -/
theorem Decoder.feed_tagBits (eth : x.eth = 500) {bits : List Bool} {k : Nat} (hx : x.state = BitVec.ofNat 8 k) (lo : 3 ≤ k)
    (odd : k % 2 = 1) (hi : k + 2 * bits.length ≤ 15) {ps : List Pulse} (near : Near x.eth ps (bits.flatMap tagBitPulses)) :
    x.feed c ps =
      ((x.accepted (BitVec.ofNat 8 (k + 2 * bits.length)) (worstDeviation ps (bits.flatMap tagBitPulses))).writeBits bits,
        List.replicate (2 * bits.length) none) := by
  induction bits generalizing x k ps with
  | nil =>
    obtain rfl := near.eq_nil
    rw [Decoder.feed_nil]
    simp [Decoder.accepted_self hx]
  | cons b bits ih =>
    simp only [List.length_cons] at hi
    obtain ⟨p, ps, rfl, hitMark, near⟩ := near.uncons
    obtain ⟨q, ps, rfl, hitSpace, near⟩ := near.uncons
    set y := x.accepted (BitVec.ofNat 8 (k + 1)) (deviation p Config.tagMark) with hy
    set z := (y.accepted (BitVec.ofNat 8 (k + 2)) (deviation q (tagSpace b))).wbit (BitVec.ofBool b) with hz
    have mark : x.tdec p = { dec := y, packet := none, event := none } :=
      Decoder.tdec_mark_hit hx lo (by omega) odd hitMark
    have inner : z.state ≠ 17#8 := by rw [hz, Decoder.wbit_state]; exact state_succ_ne (by omega)
    have same : z.configuration = x.configuration := by simp [hz, hy]
    have sameEth : z.eth = x.eth := congrArg Prod.snd same
    have space : y.tdec q = { dec := z, packet := none, event := none } := by
      rw [Decoder.tdec_space_hit (x := y) (k := k + 1) rfl (by omega) (by omega) (by omega) eth hitSpace]
      exact z.tagArrive_inner inner
    have rest := ih (x := z) (k := k + 2) ((congrArg Prod.fst same).trans tag) (sameEth.trans eth) (by simp [hz]) (by omega) (by omega)
      (by omega) (ps := ps) (by rw [sameEth]; exact near)
    rw [Decoder.feed_cons_of_tdec mark tag, Decoder.feed_cons_of_tdec space tag, rest]
    have count : 2 * (b :: bits).length = 2 * bits.length + 1 + 1 := by simp only [List.length_cons]; omega
    have sum : k + 2 + 2 * bits.length = k + (2 * bits.length + 1 + 1) := by omega
    simp only [hz, hy, Decoder.accepted_wbit, Decoder.accepted_accepted, count, sum, List.replicate_succ, List.flatMap_cons, tagBitPulses,
      List.cons_append, List.nil_append, worstDeviation_cons, Decoder.writeBits_cons, max_assoc]

/-- The two pulses of the last data bit complete the packet, if the bit and the flush bit complete a first byte. -/
theorem Decoder.feed_tagLastBit (eth : x.eth = 500) (hx : x.state = 15#8) {b : Bool} {byte : Byte}
    (bits : ((x.wbit (BitVec.ofBool b)).wbit 0#1).rbytes = [byte]) {ps : List Pulse} (near : Near x.eth ps (tagBitPulses b)) :
    x.feed c ps = (x.completed (max x.maxerr (worstDeviation ps (tagBitPulses b))), [none, some [byte >>> 1]]) := by
  obtain ⟨p, ps, rfl, hitMark, near⟩ := near.uncons
  obtain ⟨q, ps, rfl, hitSpace, near⟩ := near.uncons
  obtain rfl := near.eq_nil
  set y := x.accepted 16#8 (deviation p Config.tagMark) with hy
  set z := (y.accepted 17#8 (deviation q (tagSpace b))).wbit (BitVec.ofBool b) with hz
  have mark : x.tdec p = { dec := y, packet := none, event := none } :=
    Decoder.tdec_mark_hit (k := 15) hx (by decide) (by decide) (by decide) hitMark
  have held : (z.wbit 0#1).rbytes = [byte] := by
    rw [hz, hy, Decoder.accepted_accepted, ← Decoder.accepted_wbit, ← Decoder.accepted_wbit, Decoder.accepted_rbytes, bits]
  have space : y.tdec q = { dec := z.completed z.maxerr, packet := some [byte >>> 1], event := none } := by
    rw [Decoder.tdec_space_hit (x := y) (k := 16) rfl (by decide) (by decide) (by decide) eth hitSpace]
    exact (z.tagArrive_last (by rw [hz, Decoder.wbit_state]; rfl)).trans (Decoder.tagComplete_of_cons held)
  have same : z.configuration = x.configuration := by simp [hz, hy]
  have worst : z.maxerr = max x.maxerr (worstDeviation [p, q] (tagBitPulses b)) := by simp [hz, hy, tagBitPulses]
  rw [Decoder.feed_cons_of_tdec mark tag, Decoder.feed_cons_of_tdec space tag, Decoder.feed_nil, Decoder.completed_congr same, worst]

end

/-- The data bits of a Tag frame but the last. -/
def firstSixBits (b : Byte) : List Bool := [6, 5, 4, 3, 2, 1].map b.getLsbD

/-- The seven data bits and the flush bit are the byte shifted left by one. -/
theorem byteBits_shiftLeft (b : Byte) : byteBits (b <<< 1) = firstSixBits b ++ [b.getLsbD 0, false] := by
  revert b; decide

theorem shiftLeft_ushiftRight_one (b : Byte) : (b <<< 1) >>> 1 = b &&& 0x7F#8 := by
  revert b; decide

/-- The 14 pulses of a Tag frame behind its preamble. -/
def tagDataPulses (b : Byte) : List Pulse := (firstSixBits b).flatMap tagBitPulses ++ tagBitPulses (b.getLsbD 0)

theorem tagEncode_eq (b : Byte) : tagEncode b = Config.tagPreamble ++ tagDataPulses b := rfl

/-- The data pulses of a frame complete the packet of a decoder that holds nothing: with the flush bit, the eight bits written are those of
the byte shifted left by one. -/
theorem Decoder.feed_tagData (c : Params) {x : Decoder} (tag : x.proto = .tag) (eth : x.eth = 500) (hx : x.state = 3#8)
    (empty : x.rbytes = []) (idx : x.bitidx = 7#3) (cur : x.curbyte = 0x00#8) {b : Byte} {ps : List Pulse}
    (near : Near x.eth ps (tagDataPulses b)) :
    x.feed c ps =
      (x.completed (max x.maxerr (worstDeviation ps (tagDataPulses b))), List.replicate 13 none ++ [some [b &&& 0x7F#8]]) := by
  obtain ⟨mid, last, rfl, nearMid, nearLast⟩ := near.split
  have fedMid := Decoder.feed_tagBits c tag eth (k := 3) hx (by decide) (by decide) (by simp [firstSixBits]) nearMid
  have written (y : Decoder) : ((y.writeBits (firstSixBits b)).wbit (BitVec.ofBool (b.getLsbD 0))).wbit 0#1 =
      y.writeBits (byteBits (b <<< 1)) := by
    rw [byteBits_shiftLeft, Decoder.writeBits_append, Decoder.writeBits_cons, Decoder.writeBits_cons, Decoder.writeBits_nil,
      BitVec.ofBool_false, BitVec.ofNat_eq_ofNat]
  generalize hy : x.accepted (BitVec.ofNat 8 (3 + 2 * (firstSixBits b).length))
    (worstDeviation mid ((firstSixBits b).flatMap tagBitPulses)) = y at fedMid
  have held : (((y.writeBits (firstSixBits b)).wbit (BitVec.ofBool (b.getLsbD 0))).wbit 0#1).rbytes = [b <<< 1] := by
    rw [written, ← hy, Decoder.writeBits_byteBits (x := x.accepted _ _) idx cur, Decoder.accepted_rbytes, empty]
    rfl
  have config : (y.writeBits (firstSixBits b)).configuration = x.configuration := by rw [Decoder.writeBits_configuration, ← hy]; rfl
  have sameEth : (y.writeBits (firstSixBits b)).eth = x.eth := by rw [Decoder.writeBits_eth, ← hy, Decoder.accepted_eth]
  have sameProto : (y.writeBits (firstSixBits b)).proto = x.proto := by rw [Decoder.writeBits_proto, ← hy, Decoder.accepted_proto]
  have fedLast := Decoder.feed_tagLastBit c (sameProto.trans tag) (sameEth.trans eth)
    (by rw [Decoder.writeBits_state, ← hy]; rfl) held (by rw [sameEth]; exact nearLast)
  rw [Decoder.feed_append, fedMid, fedLast, shiftLeft_ushiftRight_one, Decoder.completed_congr config, Decoder.writeBits_maxerr, ← hy,
    Decoder.accepted_maxerr, max_assoc, tagDataPulses, worstDeviation_append nearMid.length_eq]
  rfl

/-- Settles O38: the preamble, then the data pulses, from a decoder that holds nothing. -/
theorem tagFrameWithinTheWindowsDecodes : Obligations.TagFrameWithinTheWindowsDecodes := by
  unfold Obligations.TagFrameWithinTheWindowsDecodes
  intro c x b ps rest tag hx near
  obtain ⟨-, -, -, eth⟩ := rest.tag tag
  obtain ⟨empty, cur, idx, fresh⟩ := rest.fresh hx
  rw [tagEncode_eq] at near ⊢
  obtain ⟨pre, data, rfl, nearPre, nearData⟩ := near.split
  have fedPre := Decoder.feed_tagPreamble c tag hx nearPre
  have fedData := Decoder.feed_tagData c (x := x.accepted 3#8 (worstDeviation pre Config.tagPreamble)) tag eth rfl empty idx cur nearData
  rw [Decoder.feed_append, fedPre, fedData, worstDeviation_append nearPre.length_eq, Decoder.accepted_maxerr, fresh, Nat.zero_max]
  rfl

end Sys2Proof.Machine

namespace Sys2Proof.Machine

/-! #### A CRCLP frame, symbol by symbol -/

/-- The pulse of a CRCLP data bit (R191). -/
def crclpBitPulse (b : Bool) : Pulse := if b then Config.crcBit1 else Config.crcBit0

/-- The bits of some bytes, each most significant first. -/
def bytesBits (bytes : List Byte) : List Bool := bytes.flatMap byteBits

theorem crclpFrame_eq (bytes : List Byte) :
    crclpFrame bytes = [Config.crcHeaderMark, Config.crcHeaderSpace] ++ ((bytesBits bytes).map crclpBitPulse ++ [Config.crcLeadOut]) := by
  rw [bytesBits, List.map_flatMap, ← List.append_assoc]
  rfl

/-- From an empty byte, the bits of some bytes append them. -/
theorem Decoder.writeBits_bytesBits {x : Decoder} (idx : x.bitidx = 7#3) (cur : x.curbyte = 0x00#8) (bytes : List Byte) :
    x.writeBits (bytesBits bytes) = { x with rbytes := x.rbytes ++ bytes } := by
  induction bytes generalizing x with
  | nil => simp [bytesBits]
  | cons b bytes ih =>
    rw [bytesBits, List.flatMap_cons, Decoder.writeBits_append, Decoder.writeBits_byteBits idx cur]
    exact (ih (x := { x with rbytes := x.rbytes ++ [b] }) idx cur).trans (by simp)

/-- A pulse that CDEC takes in. -/
theorem Decoder.feed_cons_of_cdec {x y : Decoder} {c : Params} {p : Pulse} {k : Option Packet} {ev : Option Corrupt}
    (h : x.cdec c p = { dec := y, packet := k, event := ev }) (crclp : x.proto = .crclp) (ps : List Pulse) :
    x.feed c (p :: ps) = ((y.feed c ps).1, k :: (y.feed c ps).2) :=
  Decoder.feed_cons_of_step ((Decoder.step_crclp crclp c p).trans h) ps

section
variable {c : Params} {x : Decoder}

/-- Under a threshold of at most 500 the windows of the two bits and of the lead-out do not meet (R195). -/
theorem Decoder.cdec_bit_hit (hx : x.state = 2#8) (eth : x.eth ≤ 500) {p : Pulse} {b : Bool} (hit : deviation p (crclpBitPulse b) < x.eth) :
    x.cdec c p = { dec := (x.accepted 2#8 (deviation p (crclpBitPulse b))).wbit (BitVec.ofBool b), packet := none, event := none } := by
  cases b with
  | true =>
    change deviation p 1500 < x.eth at hit
    have noLeadOut : ¬ deviation p 5000 < x.eth := by rw [deviation_lt_iff] at hit ⊢; omega
    rw [Decoder.cdec_data hx rfl, Decoder.cdecData_bit hx noLeadOut, if_pos hit]
    rfl
  | false =>
    change deviation p 500 < x.eth at hit
    have noLeadOut : ¬ deviation p 5000 < x.eth := by rw [deviation_lt_iff] at hit ⊢; omega
    have notOne : ¬ deviation p 1500 < x.eth := by rw [deviation_lt_iff] at hit ⊢; omega
    rw [Decoder.cdec_data hx rfl, Decoder.cdecData_bit hx noLeadOut, if_neg notOne, if_pos hit]
    rfl

variable (crclp : x.proto = .crclp)
include crclp

/-- The header moves a CRCLP decoder from state 0 to state 2 (R193, R194). -/
theorem Decoder.feed_crclpHeader (hx : x.state = 0#8) {ps : List Pulse}
    (near : Near x.eth ps [Config.crcHeaderMark, Config.crcHeaderSpace]) :
    x.feed c ps = (x.accepted 2#8 (worstDeviation ps [Config.crcHeaderMark, Config.crcHeaderSpace]), List.replicate 2 none) := by
  obtain ⟨p, ps, rfl, hitMark, near⟩ := near.uncons
  obtain ⟨q, ps, rfl, hitSpace, near⟩ := near.uncons
  obtain rfl := near.eq_nil
  set y := x.accepted 1#8 (deviation p 4000) with hy
  have mark : x.cdec c p = { dec := y, packet := none, event := none } := by
    obtain ⟨-, eq⟩ | ⟨miss, -⟩ := x.cdecSeek_cases p
    · exact (Decoder.cdec_seek hx c p).trans eq
    · exact absurd hitMark miss
  have space : y.cdec c q = { dec := y.accepted 2#8 (deviation q 3000), packet := none, event := none } := by
    obtain ⟨-, eq⟩ | ⟨miss, -⟩ := y.cdecHeader_cases q
    · exact (Decoder.cdec_header rfl c q).trans eq
    · exact absurd hitSpace miss
  rw [Decoder.feed_cons_of_cdec mark crclp, Decoder.feed_cons_of_cdec space crclp, Decoder.feed_nil]
  simp [hy, Config.crcHeaderMark, Config.crcHeaderSpace, List.replicate]

/-- The pulses of data bits write the bits. -/
theorem Decoder.feed_crclpBits (eth : x.eth ≤ 500) {bits : List Bool} (hx : x.state = 2#8) {ps : List Pulse}
    (near : Near x.eth ps (bits.map crclpBitPulse)) :
    x.feed c ps =
      ((x.accepted 2#8 (worstDeviation ps (bits.map crclpBitPulse))).writeBits bits, List.replicate bits.length none) := by
  induction bits generalizing x ps with
  | nil =>
    obtain rfl := near.eq_nil
    simp [Decoder.feed_nil, Decoder.accepted_self hx]
  | cons b bits ih =>
    obtain ⟨p, ps, rfl, hit, near⟩ := near.uncons
    set y := (x.accepted 2#8 (deviation p (crclpBitPulse b))).wbit (BitVec.ofBool b) with hy
    have sameEth : y.eth = x.eth := by rw [hy, Decoder.wbit_eth]; rfl
    have sameProto : y.proto = x.proto := by rw [hy, Decoder.wbit_proto]; rfl
    have rest := ih (x := y) (ps := ps) (sameProto.trans crclp) (by rwa [sameEth]) (by rw [hy, Decoder.wbit_state]; rfl)
      (by rw [sameEth]; exact near)
    rw [Decoder.feed_cons_of_cdec (Decoder.cdec_bit_hit hx eth hit) crclp, ← hy, rest]
    simp only [hy, Decoder.accepted_wbit, Decoder.accepted_accepted, List.map_cons, worstDeviation_cons, Decoder.writeBits_cons,
      List.length_cons, List.replicate_succ]

/-- The lead-out checks the last byte held against the CRC of those before it (R196). -/
theorem Decoder.feed_crclpLeadOut (hx : x.state = 2#8) {payload : List Byte} {rx : Byte} (held : x.rbytes = payload ++ [rx])
    (hp : payload ≠ []) {ps : List Pulse} (near : Near x.eth ps [Config.crcLeadOut]) :
    x.feed c ps =
      if crc8 c payload = rx then (x.completed (max x.maxerr (worstDeviation ps [Config.crcLeadOut])), [some payload])
      else (x.aborted, [none]) := by
  obtain ⟨p, ps, rfl, hit, near⟩ := near.uncons
  obtain rfl := near.eq_nil
  have checked := Decoder.cdecLeadOut_checked (c := c) (x := x.advanced p 5000 x.state) held hp
  have step : x.cdec c p = (x.advanced p 5000 x.state).cdecLeadOut c := (Decoder.cdec_data hx rfl c p).trans (x.cdecData_leadOut c hit)
  rw [checked] at step
  split_ifs at step ⊢
  · rw [Decoder.feed_cons_of_cdec step crclp]; rfl
  · rw [Decoder.feed_cons_of_cdec step crclp]; rfl

end

/-- Settles O46: the header, the bits of the bytes, and the lead-out, from a decoder that holds nothing. -/
theorem crclpFrameWithinTheWindowsDecodes : Obligations.CrclpFrameWithinTheWindowsDecodes := by
  unfold Obligations.CrclpFrameWithinTheWindowsDecodes
  intro c x payload rx ps rest crclp hx eth hne near
  obtain ⟨empty, cur, idx, fresh⟩ := rest.fresh hx
  rw [crclpFrame_eq] at near ⊢
  obtain ⟨header, ps, rfl, nearHeader, near⟩ := near.split
  obtain ⟨data, leadOut, rfl, nearData, nearLeadOut⟩ := near.split
  generalize hbits : (bytesBits (payload ++ [rx])) = bits at *
  generalize hy : x.accepted 2#8 (max (worstDeviation header [Config.crcHeaderMark, Config.crcHeaderSpace])
    (worstDeviation data (bits.map crclpBitPulse))) = y
  have fedHeader := Decoder.feed_crclpHeader (c := c) crclp hx nearHeader
  have fedData := Decoder.feed_crclpBits (c := c)
    (x := x.accepted 2#8 (worstDeviation header [Config.crcHeaderMark, Config.crcHeaderSpace])) crclp eth rfl nearData
  rw [Decoder.accepted_accepted, hy] at fedData
  have held : (y.writeBits bits).rbytes = payload ++ [rx] := by
    rw [← hy, ← hbits, Decoder.writeBits_bytesBits (x := x.accepted _ _) idx cur, Decoder.accepted_rbytes, empty, List.nil_append]
  have config : (y.writeBits bits).configuration = x.configuration := by rw [Decoder.writeBits_configuration, ← hy]; rfl
  have sameProto : (y.writeBits bits).proto = x.proto := by rw [Decoder.writeBits_proto, ← hy, Decoder.accepted_proto]
  have sameEth : (y.writeBits bits).eth = x.eth := by rw [Decoder.writeBits_eth, ← hy, Decoder.accepted_eth]
  have fedLeadOut := Decoder.feed_crclpLeadOut (c := c) (sameProto.trans crclp) (by rw [Decoder.writeBits_state, ← hy]; rfl) held hne
    (ps := leadOut) (by rw [sameEth]; exact nearLeadOut)
  have count : (header ++ (data ++ leadOut)).length = 2 + bits.length + 1 := by
    simp [nearHeader.length_eq, nearData.length_eq, nearLeadOut.length_eq]
    omega
  have worst : max (y.writeBits bits).maxerr (worstDeviation leadOut [Config.crcLeadOut]) =
      worstDeviation (header ++ (data ++ leadOut))
        ([Config.crcHeaderMark, Config.crcHeaderSpace] ++ (bits.map crclpBitPulse ++ [Config.crcLeadOut])) := by
    rw [worstDeviation_append nearHeader.length_eq, worstDeviation_append nearData.length_eq, Decoder.writeBits_maxerr, ← hy,
      Decoder.accepted_maxerr, fresh, Nat.zero_max, max_assoc]
  rw [Decoder.feed_append, fedHeader, Decoder.feed_append, fedData, fedLeadOut, worst, Decoder.completed_congr config,
    Decoder.aborted_congr config, count]
  split_ifs
  · simp [List.replicate_add]
  · simp [List.replicate_add]

end Sys2Proof.Machine

/-! ### What is fixed at creation, and who writes what (R20, R32, R35, R36, R310) -/

namespace Sys2Proof.Machine

/-! #### The writes of RECV and MRECV, unit by unit -/

theorem set_eq_self_of_getElem? {α : Type} {l : List α} {i : Nat} {a : α} (h : l[i]? = some a) : l.set i a = l := by
  obtain ⟨hlt, rfl⟩ := List.getElem?_eq_some_iff.mp h
  exact List.set_getElem_self hlt

/-- Related lists are related entry by entry. -/
theorem forall₂_getElem? {α β : Type} {R : α → β → Prop} {l : List α} {l' : List β} (h : List.Forall₂ R l l') {i : Nat} {a : α} {b : β}
    (ha : l[i]? = some a) (hb : l'[i]? = some b) : R a b := by
  obtain ⟨hlt, rfl⟩ := List.getElem?_eq_some_iff.mp ha
  obtain ⟨hlt', rfl⟩ := List.getElem?_eq_some_iff.mp hb
  exact h.get hlt hlt'

section
variable {s : State} {r : Nat} {x : Receiver} (h : s.receivers[r]? = some x) (z : Receiver)
include h

theorem State.setReceiver_decoder?_self :
    ({ s with receivers := s.receivers.set r z } : State).decoder? (.single r) = some z.dec := by
  simp [State.decoder?, (List.getElem?_eq_some_iff.mp h).1]

omit h in
theorem State.setReceiver_decoder?_ne {d : DecRef} (hd : d ≠ .single r) :
    ({ s with receivers := s.receivers.set r z } : State).decoder? d = s.decoder? d := by
  cases d with
  | single r' =>
    have ne : r ≠ r' := fun e => hd (by rw [e])
    simp [State.decoder?, ne]
  | sensor m i => rfl

omit h in
theorem State.setReceiver_source?_ne {d : DecRef} (hd : d ≠ .single r) :
    ({ s with receivers := s.receivers.set r z } : State).source? d = s.source? d := by
  cases d with
  | single r' =>
    have ne : r ≠ r' := fun e => hd (by rw [e])
    simp [State.source?, ne]
  | sensor m i => rfl

theorem State.setReceiver_configuration (hc : z.dec.configuration = x.dec.configuration) :
    ({ s with receivers := s.receivers.set r z } : State).configuration = s.configuration := by
  simp only [State.configuration, Configuration.mk.injEq, true_and, and_true]
  rw [List.map_set, hc]
  exact set_eq_self_of_getElem? (by simp [h])

end

/-- The decoders after a multi-sensor receiver was written. -/
theorem State.setMulti_decoder? {s : State} {m : Nat} {u v : Multi} (h : s.multis[m]? = some u) (d : DecRef) :
    ({ s with multis := s.multis.set m v } : State).decoder? d = s.decoder? d ∨
      ∃ i, d = .sensor m i ∧ s.decoder? d = (u.sensors[i]?).map Sensor.dec ∧
        ({ s with multis := s.multis.set m v } : State).decoder? d = (v.sensors[i]?).map Sensor.dec := by
  cases d with
  | single r => exact .inl rfl
  | sensor m' i =>
    by_cases hm : m = m'
    · subst hm
      exact .inr ⟨i, rfl, by simp [State.decoder?, h], by simp [State.decoder?, (List.getElem?_eq_some_iff.mp h).1]⟩
    · exact .inl (by simp [State.decoder?, hm])

theorem State.setMulti_configuration {s : State} {m : Nat} {u v : Multi} (h : s.multis[m]? = some u)
    (hc : v.sensors.map (fun x => x.dec.configuration) = u.sensors.map fun x => x.dec.configuration) :
    ({ s with multis := s.multis.set m v } : State).configuration = s.configuration := by
  simp only [State.configuration, Configuration.mk.injEq, true_and, and_true]
  rw [List.map_set, hc]
  exact set_eq_self_of_getElem? (by simp [h])

/-! #### What a loop does to the decoders it feeds -/

/-- What every decoder step keeps, RECV keeps. -/
theorem recvAll_keeps (c : Params) {P : Decoder → Prop} (step : ∀ d p, P d → P (d.step c p).dec) :
    ∀ src d, P d → P (recvAll c src d).dec := by
  refine recvAll_induction c (motive := fun _ d z => P d → P z.dec) ?absent ?packet ?next
  case absent => exact fun _ _ _ _ hd => hd
  case packet => exact fun _ _ d p _ _ _ hd => step d p hd
  case next => exact fun _ _ d p _ _ _ rest hd => rest (step d p hd)

/-- Everything a sensor's part of a round can do (R231). -/
theorem Sensor.pull_cases (c : Params) (x : Sensor) :
    (∃ src', x.src.nextPulse = (none, src') ∧
        x.pull c = ⟨{ x with src := src' }, false, none, []⟩) ∨
      (∃ p src', x.src.nextPulse = (some p, src') ∧
        x.pull c = ⟨{ x with src := src', dec := (x.dec.step c p).dec }, true, (x.dec.step c p).packet, (x.dec.step c p).events⟩) := by
  unfold Sensor.pull
  rcases hs : x.src.nextPulse with ⟨_ | p, src'⟩
  · exact .inl ⟨src', rfl, rfl⟩
  · exact .inr ⟨p, src', rfl, rfl⟩

@[simp] theorem Sensor.pull_snap (c : Params) (x : Sensor) : (x.pull c).sensor.snap = x.snap := by
  obtain ⟨src', -, eq⟩ | ⟨p, src', -, eq⟩ := x.pull_cases c <;> rw [eq]

@[simp] theorem Sensor.pull_configuration (c : Params) (x : Sensor) : (x.pull c).sensor.dec.configuration = x.dec.configuration := by
  obtain ⟨src', -, eq⟩ | ⟨p, src', -, eq⟩ := x.pull_cases c <;> rw [eq]
  exact x.dec.step_configuration c p

/-- A completing sensor has recorded a margin (R232). -/
theorem Sensor.pull_packet_lasterr {c : Params} {x : Sensor} (h : (x.pull c).packet.isSome = true) :
    ∃ m, (x.pull c).sensor.dec.lasterr = some m := by
  obtain ⟨src', -, eq⟩ | ⟨p, src', -, eq⟩ := x.pull_cases c <;> rw [eq] at h ⊢
  · cases h
  · exact x.dec.step_packet_lasterr c p h

/-- A sensor as a completing round leaves it (R232, R234). -/
def Sensor.arbitrated (c : Params) (x : Sensor) : Sensor := (x.pull c).capture.resetDecoder

theorem arbitrate_sensors (c : Params) (xs : List Sensor) :
    (arbitrate (xs.map (Sensor.pull c))).sensors = xs.map (Sensor.arbitrated c) := by
  simp [arbitrate, Sensor.arbitrated]

@[simp] theorem Sensor.arbitrated_dec (c : Params) (x : Sensor) :
    (x.arbitrated c).dec = (x.pull c).sensor.dec.drst (x.pull c).sensor.dec.lasterr := rfl

@[simp] theorem Sensor.arbitrated_snap (c : Params) (x : Sensor) :
    (x.arbitrated c).snap = if (x.pull c).packet.isSome then (x.pull c).sensor.dec.snapEntry else none := rfl

theorem forall₂_map_right {α β : Type} {R : α → β → Prop} {f : α → β} (h : ∀ a, R a (f a)) (l : List α) : List.Forall₂ R l (l.map f) :=
  List.forall₂_map_right_iff.mpr (List.forall₂_same.mpr fun a _ => h a)

/-- MRECV relates each sensor to its successor by whatever a round that completes nothing does, repeated, and a completing round does. -/
theorem mrecvAll_forall₂ (c : Params) {R : Sensor → Sensor → Prop} (pull : ∀ x, R x (x.pull c).sensor)
    (last : ∀ x, R x (x.arbitrated c)) (trans : ∀ x y, R (x.pull c).sensor y → R x y) :
    ∀ xs, List.Forall₂ R xs (mrecvAll c xs).sensors := by
  refine mrecvAll_induction c (motive := fun xs z => List.Forall₂ R xs z.sensors) ?complete ?absent ?next
  case complete => exact fun xs _ => by rw [arbitrate_sensors]; exact forall₂_map_right last xs
  case absent => exact fun xs _ _ => by rw [List.map_map]; exact forall₂_map_right pull xs
  case next =>
    intro xs z _ _ rest
    rw [List.map_map, List.forall₂_map_left_iff] at rest
    exact rest.imp fun x y hy => trans x y hy

/-- MRECV leaves every sensor's configuration as it was (R20). -/
theorem mrecvAll_configuration (c : Params) (xs : List Sensor) :
    (mrecvAll c xs).sensors.map (fun x => x.dec.configuration) = xs.map fun x => x.dec.configuration := by
  have same := mrecvAll_forall₂ c (R := fun x y => x.dec.configuration = y.dec.configuration) (fun x => (x.pull_configuration c).symm)
    (fun x => by rw [Sensor.arbitrated_dec, Decoder.drst_configuration, Sensor.pull_configuration])
    (fun x y h => by rw [← h, Sensor.pull_configuration]) xs
  rw [← List.forall₂_eq_eq_eq, List.forall₂_map_left_iff, List.forall₂_map_right_iff]
  exact same.flip.imp fun _ _ h => h.symm

/-! #### The recorded margin stays present (R32) -/

theorem Decoder.step_lasterr_isSome (c : Params) (x : Decoder) (p : Pulse) (h : x.lasterr.isSome = true) :
    (x.step c p).dec.lasterr.isSome = true := by
  cases hp : x.proto with
  | tag =>
    rw [Decoder.step_tag hp]
    obtain ⟨e, -, -, eq⟩ | ⟨e, b, -, -, -, -, eq⟩ | ⟨byte, -, -, eq⟩ | ⟨byte, -, -, -, eq⟩ | ⟨byte, -, eq⟩ | eq :=
      x.tdec_cases p <;> rw [eq]
    · exact h
    · rwa [Decoder.wbit_lasterr]
    all_goals rfl
  | crclp =>
    rw [Decoder.step_crclp hp]
    obtain ⟨-, eq⟩ | ⟨-, -, eq⟩ | ⟨-, -, eq⟩ | ⟨e, b, -, -, eq⟩ | ⟨k, -, -, eq⟩ | ⟨ev, eq⟩ := x.cdec_cases c p <;> rw [eq]
    · exact h
    · exact h
    · exact h
    · rwa [Decoder.wbit_lasterr]
    all_goals rfl

theorem Sensor.pull_lasterr_isSome (c : Params) (x : Sensor) (h : x.dec.lasterr.isSome = true) :
    (x.pull c).sensor.dec.lasterr.isSome = true := by
  obtain ⟨src', -, eq⟩ | ⟨p, src', -, eq⟩ := x.pull_cases c <;> rw [eq]
  · exact h
  · exact x.dec.step_lasterr_isSome c p h

theorem mrecvAll_lasterr_isSome (c : Params) (xs : List Sensor) :
    List.Forall₂ (fun x y : Sensor => x.dec.lasterr.isSome = true → y.dec.lasterr.isSome = true) xs (mrecvAll c xs).sensors :=
  mrecvAll_forall₂ c (fun x h => x.pull_lasterr_isSome c h) (fun x h => x.pull_lasterr_isSome c h)
    (fun x _ rest h => rest (x.pull_lasterr_isSome c h)) xs

/-- The host reaches no instruction that writes a decoder by its operand. -/
theorem internal_of_writesDecoder {i : Instr} {d : DecRef} (h : i.writesDecoder = some d) : i.internal = true := by
  cases i <;> cases h <;> rfl

theorem writesDecoder_of_not_internal {i : Instr} (h : i.internal = false) : i.writesDecoder = none := by
  cases hw : i.writesDecoder with
  | none => rfl
  | some d => cases h.symm.trans (internal_of_writesDecoder hw)

/-! #### The statements -/

/-- Settles O11: a decoder is written with the configuration it had, and nothing else that is written belongs to the configuration. -/
theorem everyStepKeepsTheConfiguration : Obligations.EveryStepKeepsTheConfiguration := by
  unfold Obligations.EveryStepKeepsTheConfiguration
  intro s t h
  obtain ⟨-, rfl⟩ | ⟨r, rest, i, -, -, -, h⟩ := step_next h
  · rfl
  set s' : State := { s with requests := rest }
  have kept : t.configuration = s'.configuration := by
    cases hw : i.writesDecoder with
    | some d =>
      obtain ⟨x, y, r, ev, hx, hc, rfl⟩ := exec_next_of_writesDecoder hw h
      exact s'.setDecoder_configuration d x y hx hc
    | none =>
      obtain ⟨r, x, z, -, hx, rfl, rfl⟩ | ⟨m, u, z, -, hu, rfl, rfl⟩ | ⟨j, snk, snk', r, -, rfl⟩ | ⟨r, rfl⟩ :=
        exec_next_of_not_writesDecoder hw h
      · exact State.setReceiver_configuration hx _ (recvAll_keeps _ (P := fun d => d.configuration = x.dec.configuration)
          (fun d p hd => (d.step_configuration _ p).trans hd) x.src x.dec rfl)
      · exact State.setMulti_configuration hu (mrecvAll_configuration _ _)
      · simp [State.configuration]
      · rfl
  exact kept

/-- Settles O12: of what an instruction can write, only MRECV's sensors hold snapshot entries. -/
theorem onlyMrecvWritesSnapshots : Obligations.OnlyMrecvWritesSnapshots := by
  unfold Obligations.OnlyMrecvWritesSnapshots
  intro i s t notMrecv h
  cases hw : i.writesDecoder with
  | some d =>
    obtain ⟨x, y, r, ev, -, -, rfl⟩ := exec_next_of_writesDecoder hw h
    exact s.setDecoder_snapshots d y
  | none =>
    obtain ⟨r, x, z, -, -, -, rfl⟩ | ⟨m, u, z, hi, -⟩ | ⟨j, snk, snk', r, -, rfl⟩ | ⟨r, rfl⟩ := exec_next_of_not_writesDecoder hw h
    · rfl
    · exact absurd hi (notMrecv m)
    · rfl
    · rfl

/-- Settles O13: what the host reaches writes decoders by feeding them pulses and by the reset of a completing round only. -/
theorem lasterrStaysValid : Obligations.LasterrStaysValid := by
  unfold Obligations.LasterrStaysValid
  intro s t d x y hidden h hx hy valid
  obtain ⟨-, rfl⟩ | ⟨r, rest, i, -, -, reach, h⟩ := step_next h
  · cases hx.symm.trans hy
    exact valid
  have hw : i.writesDecoder = none := writesDecoder_of_not_internal (by simpa [hidden] using reach)
  have same {u : State} (hu : u.decoder? d = s.decoder? d) (hy : u.decoder? d = some y) : y.lasterr.isSome = true := by
    cases (hu.symm.trans hy).symm.trans hx
    exact valid
  obtain ⟨r, v, z, -, hv, rfl, rfl⟩ | ⟨m, u, z, -, hu, rfl, rfl⟩ | ⟨j, snk, snk', r, -, rfl⟩ | ⟨r, rfl⟩ :=
    exec_next_of_not_writesDecoder hw h
  all_goals rw [State.respond_decoder?] at hy
  case inl =>
    by_cases hd : d = .single r
    · subst hd
      rw [State.setReceiver_decoder?_self hv] at hy
      cases hy
      have hvx : v.dec = x := by simpa [State.decoder?, hv] using hx
      exact recvAll_keeps _ (P := fun d => d.lasterr.isSome = true) (fun d p => d.step_lasterr_isSome _ p) v.src v.dec (hvx ▸ valid)
    · exact same (State.setReceiver_decoder?_ne _ hd) hy
  case inr.inl =>
    obtain eq | ⟨i, rfl, old, new⟩ := State.setMulti_decoder? (v := ⟨(mrecvAll s.params u.sensors).sensors⟩) hu d
    · exact same eq hy
    · obtain ⟨b, hb, rfl⟩ := Option.map_eq_some_iff.mp (new.symm.trans hy)
      obtain ⟨a, ha, rfl⟩ := Option.map_eq_some_iff.mp (old.symm.trans hx)
      exact forall₂_getElem? (mrecvAll_lasterr_isSome s.params u.sensors) ha hb valid
  case inr.inr.inl => exact same (by cases d <;> rfl) hy
  case inr.inr.inr => exact same (by cases d <;> rfl) hy

/-- Settles O14: such an instruction ends with the write of its decoder and the answer. -/
theorem decoderOperationsFrame : Obligations.DecoderOperationsFrame := by
  unfold Obligations.DecoderOperationsFrame
  intro i d s t hw h
  obtain ⟨x, y, r, ev, -, -, rfl⟩ := exec_next_of_writesDecoder hw h
  refine ⟨fun d' hd => ?_, fun d' => by simp, s.setDecoder_snapshots d y, by simp, by simp, by simp, by simp⟩
  rw [State.respond_decoder?, s.decoder?_setDecoder_ne d d' y hd]

end Sys2Proof.Machine

/-! ### The invariants at rest (R26, R29 to R31, R36, R40, R153) -/

namespace Sys2Proof.Machine

/-! #### A decoder at rest -/

/-- A decoder in the state after a reset is at rest, if the recorded margin is within the threshold. -/
theorem Decoder.drst_atRest {x : Decoder} {m : Option Nat} (tag : x.proto = .tag → x.eth = Config.tagEth)
    (bound : ∀ v, m = some v → v ≤ x.eth) : (x.drst m).AtRest where
  lowBitsClear := rfl
  maxerrBound := (Nat.eq_zero_or_pos x.eth).elim (fun zero => .inr ⟨zero, rfl⟩) .inl
  lasterrBound := bound
  fresh _ := ⟨rfl, rfl, rfl, rfl⟩
  tag hp := ⟨Nat.zero_le _, rfl, rfl, tag hp⟩
  crclp _ := ⟨Nat.zero_le _, fun _ => ⟨rfl, rfl⟩⟩

theorem Decoder.created_atRest {proto : Protocol} {eth : Nat} (tag : proto = .tag → eth = Config.tagEth) :
    (Decoder.created proto eth).AtRest :=
  Decoder.drst_atRest (x := Decoder.created proto eth) (m := none) tag fun _ h => nomatch h

namespace Decoder.AtRest

variable {x : Decoder} (h : x.AtRest)
include h

theorem tag_eth (hp : x.proto = .tag) : x.eth = Config.tagEth := by
  obtain ⟨-, -, -, eth⟩ := h.tag hp
  exact eth

theorem drst {m : Option Nat} (bound : ∀ v, m = some v → v ≤ x.eth) : (x.drst m).AtRest := Decoder.drst_atRest h.tag_eth bound

theorem aborted : x.aborted.AtRest :=
  h.drst fun _ eq => (Option.some.inj eq).symm.le

theorem completed {m : Nat} (hm : m ≤ x.eth) : (x.completed m).AtRest :=
  h.drst fun _ eq => (Option.some.inj eq) ▸ hm

/-- A matched pulse keeps `MAXERR` below the threshold (R26). -/
theorem max_lt {p e : Pulse} (hit : deviation p e < x.eth) : max x.maxerr (deviation p e) < x.eth := by
  have := h.maxerrBound
  omega

/-- A bit enters above the low bits that are still clear (R29). -/
theorem wbit_lowBitsClear (b : BitVec 1) : (x.wbit b).curbyte.toNat % 2 ^ ((x.wbit b).bitidx.toNat + 1) = 0 := by
  by_cases last : x.bitidx = 0#3
  · rw [x.wbit_last b last]; rfl
  · have pos : 0 < x.bitidx.toNat := by
      rw [Nat.pos_iff_ne_zero, ne_eq, ← BitVec.toNat_zero, BitVec.toNat_inj]
      exact last
    have lt := x.bitidx.isLt
    have next : (x.bitidx - 1#3).toNat + 1 = x.bitidx.toNat := by rw [BitVec.toNat_sub]; simp; omega
    have below : x.curbyte.toNat % 2 ^ x.bitidx.toNat = 0 :=
      Nat.mod_eq_zero_of_dvd ((Nat.pow_dvd_pow 2 (Nat.le_succ _)).trans (Nat.dvd_of_mod_eq_zero h.lowBitsClear))
    have entered : (b.setWidth 8 <<< x.bitidx.toNat).toNat % 2 ^ x.bitidx.toNat = 0 := by
      rw [BitVec.toNat_shiftLeft, Nat.shiftLeft_eq, Nat.mod_mod_of_dvd _ (Nat.pow_dvd_pow 2 (by omega))]
      exact Nat.mul_mod_left _ _
    rw [x.wbit_inner b last]
    simp only [next, BitVec.toNat_or, Nat.or_mod_two_pow, below, entered]
    rfl

/-- A preamble pulse or a mark that matches leads a Tag decoder at rest to rest (R30). -/
theorem tag_advanced (hp : x.proto = .tag) {p e : Pulse} (hit : deviation p e < x.eth)
    (noBit : x.state.toNat ≤ 2 ∨ 3 ≤ x.state.toNat ∧ x.state.toNat ≤ 15 ∧ x.state.toNat % 2 = 1) :
    (x.advanced p e (x.state + 1#8)).AtRest := by
  obtain ⟨-, empty, idx, eth⟩ := h.tag hp
  have next : (x.state + 1#8).toNat = x.state.toNat + 1 := by rw [BitVec.toNat_add]; simp; omega
  refine ⟨h.lowBitsClear, .inl (h.max_lt hit), h.lasterrBound, fun zero => ?_, fun _ => ⟨?_, empty, ?_, eth⟩, fun crclp => ?_⟩
  · have : (x.state + 1#8).toNat = 0 := congrArg BitVec.toNat zero
    omega
  · change (x.state + 1#8).toNat ≤ 16
    omega
  · change x.bitidx.toNat = _
    rw [idx]
    simp only [Decoder.tagBits, Decoder.advanced, next]
    split_ifs <;> omega
  · cases hp.symm.trans crclp

/-- A data space that matches before the last leads a Tag decoder at rest to rest (R30). -/
theorem tag_advanced_wbit (hp : x.proto = .tag) {p e : Pulse} (hit : deviation p e < x.eth) (lo : 4 ≤ x.state.toNat)
    (hi : x.state.toNat ≤ 14) (even : x.state.toNat % 2 = 0) (b : BitVec 1) :
    ((x.advanced p e (x.state + 1#8)).wbit b).AtRest := by
  obtain ⟨-, empty, idx, eth⟩ := h.tag hp
  have next : (x.state + 1#8).toNat = x.state.toNat + 1 := by rw [BitVec.toNat_add]; simp; omega
  have bits : x.bitidx.toNat = 7 - (x.state.toNat - 3) / 2 := by
    rw [idx, Decoder.tagBits, if_neg (by omega)]
  have inner : (x.advanced p e (x.state + 1#8)).bitidx ≠ 0#3 := by
    intro zero
    have : x.bitidx.toNat = 0 := congrArg BitVec.toNat zero
    omega
  have clear : ((x.advanced p e (x.state + 1#8)).wbit b).curbyte.toNat %
      2 ^ (((x.advanced p e (x.state + 1#8)).wbit b).bitidx.toNat + 1) = 0 := by
    have := h.wbit_lowBitsClear b
    rw [x.wbit_inner b inner] at this
    rwa [Decoder.wbit_inner _ b inner]
  rw [Decoder.wbit_inner _ b inner] at clear ⊢
  refine ⟨clear, .inl (h.max_lt hit), h.lasterrBound, fun zero => ?_, fun _ => ⟨?_, empty, ?_, eth⟩, fun crclp => ?_⟩
  · have : (x.state + 1#8).toNat = 0 := congrArg BitVec.toNat zero
    omega
  · change (x.state + 1#8).toNat ≤ 16
    omega
  · change (x.bitidx - 1#3).toNat = _
    rw [BitVec.toNat_sub]
    simp only [Decoder.tagBits, Decoder.advanced, next]
    rw [if_neg (by omega)]
    simp
    omega
  · cases hp.symm.trans crclp

/-- A header pulse that matches leads a CRCLP decoder at rest to rest (R31). -/
theorem crclp_advanced (hp : x.proto = .crclp) {p e : Pulse} (hit : deviation p e < x.eth) (hx : x.state.toNat < 2) {n : BitVec 8}
    (lo : n ≠ 0#8) (hi : n.toNat ≤ 2) : (x.advanced p e n).AtRest := by
  obtain ⟨-, held⟩ := h.crclp hp
  exact ⟨h.lowBitsClear, .inl (h.max_lt hit), h.lasterrBound, fun zero => absurd zero lo, fun tag => (nomatch hp.symm.trans tag),
    fun _ => ⟨hi, fun _ => held hx⟩⟩

/-- A bit pulse leads a CRCLP decoder at rest to rest (R31). -/
theorem crclp_advanced_wbit (hp : x.proto = .crclp) {p e : Pulse} (hit : deviation p e < x.eth) (b : BitVec 1) :
    ((x.advanced p e 2#8).wbit b).AtRest where
  lowBitsClear := by
    have clear := h.wbit_lowBitsClear b
    rw [Decoder.advanced_eq_accepted, ← Decoder.accepted_wbit]
    exact clear
  maxerrBound := .inl (by rw [Decoder.wbit_maxerr, Decoder.wbit_eth]; exact h.max_lt hit)
  lasterrBound := by rw [Decoder.wbit_lasterr, Decoder.wbit_eth]; exact h.lasterrBound
  fresh zero := by rw [Decoder.wbit_state] at zero; exact absurd (show 2#8 = 0#8 from zero) (by decide)
  tag tag := by rw [Decoder.wbit_proto] at tag; cases hp.symm.trans tag
  crclp _ := by rw [Decoder.wbit_state]; exact ⟨le_refl 2, fun lt => absurd (show 2 < 2 from lt) (by decide)⟩

/-- A decoder step keeps a decoder at rest, and a packet's margin is below the threshold (R26, R29 to R31, R153). -/
theorem step (c : Params) (p : Pulse) :
    (x.step c p).dec.AtRest ∧ ∀ k, (x.step c p).packet = some k → ∃ m < x.eth, (x.step c p).dec.lasterr = some m := by
  cases hp : x.proto with
  | tag =>
    obtain ⟨low, -⟩ := h.tag hp
    rw [Decoder.step_tag hp]
    obtain ⟨e, hit, noBit, eq⟩ | ⟨e, b, hit, lo, hi, even, eq⟩ | ⟨byte, -, hit, eq⟩ | ⟨byte, -, -, hit, eq⟩ | ⟨byte, last, -⟩ | eq :=
      x.tdec_cases p
    case inr.inr.inr.inr.inl => simp [last] at low
    all_goals rw [eq]
    · exact ⟨h.tag_advanced hp hit noBit, fun _ hk => nomatch hk⟩
    · exact ⟨h.tag_advanced_wbit hp hit lo hi even b, fun _ hk => nomatch hk⟩
    · exact ⟨h.completed (h.max_lt hit).le, fun _ _ => ⟨_, h.max_lt hit, rfl⟩⟩
    · exact ⟨h.completed (h.max_lt hit).le, fun _ _ => ⟨_, h.max_lt hit, rfl⟩⟩
    · exact ⟨h.aborted, fun _ hk => nomatch hk⟩
  | crclp =>
    rw [Decoder.step_crclp hp]
    obtain ⟨-, eq⟩ | ⟨hx, hit, eq⟩ | ⟨hx, hit, eq⟩ | ⟨e, b, -, hit, eq⟩ | ⟨k, -, hit, eq⟩ | ⟨ev, eq⟩ := x.cdec_cases c p
    all_goals rw [eq]
    · exact ⟨h, fun _ hk => nomatch hk⟩
    · exact ⟨h.crclp_advanced hp hit (by simp [hx]) (by decide) (by decide), fun _ hk => nomatch hk⟩
    · exact ⟨h.crclp_advanced hp hit (by simp [hx]) (by decide) (by decide), fun _ hk => nomatch hk⟩
    · exact ⟨h.crclp_advanced_wbit hp hit b, fun _ hk => nomatch hk⟩
    · exact ⟨h.completed (h.max_lt hit).le, fun _ _ => ⟨_, h.max_lt hit, rfl⟩⟩
    · exact ⟨h.aborted, fun _ hk => nomatch hk⟩

end Decoder.AtRest

/-! #### A sensor and a multi-sensor receiver at rest -/

/-- A sensor's decoder at rest and its snapshot entry sound. -/
def Sensor.AtRest (x : Sensor) : Prop := x.dec.AtRest ∧ x.SnapSound

theorem Sensor.SnapSound.of_same {x y : Sensor} (h : x.SnapSound) (snap : y.snap = x.snap)
    (config : y.dec.configuration = x.dec.configuration) : y.SnapSound := by
  have eth : y.dec.eth = x.dec.eth := congrArg Prod.snd config
  unfold Sensor.SnapSound at h ⊢
  rwa [snap, eth]

/-- A sensor's part of a round keeps it at rest, and a completing sensor has recorded a margin below the threshold. -/
theorem Sensor.AtRest.pull {x : Sensor} (h : x.AtRest) (c : Params) :
    (x.pull c).sensor.AtRest ∧ ∀ k, (x.pull c).packet = some k → ∃ m < x.dec.eth, (x.pull c).sensor.dec.lasterr = some m := by
  obtain ⟨dec, sound⟩ := h
  have sound' : (x.pull c).sensor.SnapSound := sound.of_same (x.pull_snap c) (x.pull_configuration c)
  obtain ⟨src', -, eq⟩ | ⟨p, src', -, eq⟩ := x.pull_cases c <;> rw [eq] at sound' ⊢
  · exact ⟨⟨dec, sound'⟩, fun _ hk => nomatch hk⟩
  · obtain ⟨dec', margin⟩ := dec.step c p
    exact ⟨⟨dec', sound'⟩, margin⟩

/-- A completing round leaves a sensor at rest: an entry that is captured is the packet's margin with its strength (R36, R232). -/
theorem Sensor.AtRest.arbitrated {x : Sensor} (h : x.AtRest) (c : Params) : (x.arbitrated c).AtRest := by
  obtain ⟨⟨dec, -⟩, margin⟩ := h.pull c
  refine ⟨dec.drst dec.lasterrBound, fun e he => ?_⟩
  rw [Sensor.arbitrated_snap] at he
  split_ifs at he with completed
  obtain ⟨k, hk⟩ := Option.isSome_iff_exists.mp completed
  obtain ⟨m, lt, recorded⟩ := margin k hk
  have eth : (x.pull c).sensor.dec.eth = x.dec.eth := congrArg Prod.snd (x.pull_configuration c)
  simp only [Decoder.snapEntry, recorded, Option.map_some, Option.some.injEq] at he
  subst he
  exact ⟨by rw [Sensor.arbitrated_dec, Decoder.drst_eth, eth]; exact lt, rfl⟩

theorem mrecvAll_atRest (c : Params) (xs : List Sensor) :
    List.Forall₂ (fun x y : Sensor => x.AtRest → y.AtRest) xs (mrecvAll c xs).sensors :=
  mrecvAll_forall₂ c (fun _ h => (h.pull c).1) (fun _ h => h.arbitrated c) (fun _ _ rest h => rest (h.pull c).1) xs

theorem Multi.atRest_iff {u : Multi} :
    u.AtRest ↔ u.sensors ≠ [] ∧ (∃ config, ∀ x ∈ u.sensors, x.dec.configuration = config) ∧ ∀ x ∈ u.sensors, x.AtRest := by
  constructor
  · rintro ⟨ne, one, decoders, snapshots⟩
    obtain ⟨y, hy⟩ := List.exists_mem_of_ne_nil _ ne
    exact ⟨ne, ⟨y.dec.configuration, fun x hx => Prod.ext_iff.mpr (one x hx y hy)⟩, fun x hx => ⟨decoders x hx, snapshots x hx⟩⟩
  · rintro ⟨ne, ⟨config, same⟩, rest⟩
    exact ⟨ne, fun x hx y hy => Prod.ext_iff.mp ((same x hx).trans (same y hy).symm), fun x hx => (rest x hx).1, fun x hx => (rest x hx).2⟩

/-- MRECV keeps a multi-sensor receiver at rest. -/
theorem Multi.AtRest.mrecv {u : Multi} (h : u.AtRest) (c : Params) : Multi.AtRest ⟨(mrecvAll c u.sensors).sensors⟩ := by
  obtain ⟨ne, ⟨config, same⟩, rest⟩ := Multi.atRest_iff.mp h
  have kept := mrecvAll_atRest c u.sensors
  have configs := mrecvAll_configuration c u.sensors
  refine Multi.atRest_iff.mpr ⟨fun nil => ne ?_, ⟨config, fun y hy => ?_⟩, fun y hy => ?_⟩
  · exact List.eq_nil_of_length_eq_zero (by rw [kept.length_eq]; exact congrArg List.length nil)
  · have listed : y.dec.configuration ∈ u.sensors.map fun x => x.dec.configuration := configs ▸ List.mem_map_of_mem hy
    obtain ⟨x, hx, eq⟩ := List.mem_map.mp listed
    exact eq.symm.trans (same x hx)
  · obtain ⟨i, hi⟩ := List.mem_iff_getElem?.mp hy
    obtain ⟨hlt, -⟩ := List.getElem?_eq_some_iff.mp hi
    have old : u.sensors[i]? = some (u.sensors[i]'(kept.length_eq ▸ hlt)) := List.getElem?_eq_getElem _
    exact forall₂_getElem? kept old hi (rest _ (List.getElem_mem _))

/-! #### The block at reset -/

/-- Every decoder of the block at reset is one at creation, with threshold 500 under TAG (R40). -/
theorem reset_receivers {x : Receiver} (h : x ∈ State.reset.receivers) :
    ∃ proto eth, x.dec = Decoder.created proto eth ∧ (proto = .tag → eth = Config.tagEth) := by
  simp only [State.reset, List.mem_cons, List.not_mem_nil, or_false] at h
  obtain rfl | rfl := h
  · exact ⟨_, _, rfl, fun _ => rfl⟩
  · exact ⟨_, _, rfl, fun crclp => nomatch crclp⟩

theorem reset_multis {u : Multi} (h : u ∈ State.reset.multis) :
    u.sensors ≠ [] ∧ ∃ proto eth, (∀ x ∈ u.sensors, x.dec = Decoder.created proto eth ∧ x.snap = none) ∧
      (proto = .tag → eth = Config.tagEth) := by
  simp only [State.reset, List.mem_cons, List.not_mem_nil, or_false] at h
  obtain rfl | rfl := h
  · refine ⟨by simp, .tag, Config.tagEth, fun x hx => ?_, fun _ => rfl⟩
    simp only [List.mem_cons, List.not_mem_nil, or_false] at hx
    obtain rfl | rfl | rfl := hx <;> exact ⟨rfl, rfl⟩
  · refine ⟨by simp, .crclp, Config.crcEthAtReset, fun x hx => ?_, fun crclp => nomatch crclp⟩
    simp only [List.mem_cons, List.not_mem_nil, or_false] at hx
    obtain rfl | rfl := hx <;> exact ⟨rfl, rfl⟩

theorem reset_decoder? {d : DecRef} {x : Decoder} (h : State.reset.decoder? d = some x) :
    ∃ proto eth, x = Decoder.created proto eth ∧ (proto = .tag → eth = Config.tagEth) := by
  cases d with
  | single r =>
    obtain ⟨v, hv, rfl⟩ := Option.map_eq_some_iff.mp h
    exact reset_receivers (List.mem_of_getElem? hv)
  | sensor m i =>
    obtain ⟨u, hu, hi⟩ := Option.bind_eq_some_iff.mp h
    obtain ⟨v, hv, rfl⟩ := Option.map_eq_some_iff.mp hi
    obtain ⟨-, proto, eth, created, tag⟩ := reset_multis (List.mem_of_getElem? hu)
    exact ⟨proto, eth, (created v (List.mem_of_getElem? hv)).1, tag⟩

/-! #### The statements -/

/-- Settles O8: every decoder and every sensor is one at creation. -/
theorem resetIsCreation : Obligations.ResetIsCreation := by
  unfold Obligations.ResetIsCreation
  refine ⟨fun d x h => ?_, fun snap hs e he => ?_, rfl, rfl, rfl⟩
  · obtain ⟨proto, eth, rfl, tag⟩ := reset_decoder? h
    exact ⟨rfl, rfl, rfl, rfl, rfl, rfl, tag⟩
  · obtain ⟨u, hu, rfl⟩ := List.mem_map.mp hs
    obtain ⟨x, hx, rfl⟩ := List.mem_map.mp he
    obtain ⟨-, proto, eth, created, -⟩ := reset_multis hu
    exact (created x hx).2

/-- Settles O9: a decoder at creation is at rest, and an absent snapshot entry is sound. -/
theorem resetIsAtRest : Obligations.ResetIsAtRest where
  uopsHidden := rfl
  receivers x hx := by
    obtain ⟨proto, eth, dec, tag⟩ := reset_receivers hx
    exact dec ▸ Decoder.created_atRest tag
  multis u hu := by
    obtain ⟨ne, proto, eth, created, tag⟩ := reset_multis hu
    refine Multi.atRest_iff.mpr ⟨ne, ⟨(proto, eth), fun x hx => ?_⟩, fun x hx => ?_⟩ <;> obtain ⟨dec, snap⟩ := created x hx
    · rw [dec]; rfl
    · exact ⟨dec ▸ Decoder.created_atRest tag, fun e he => nomatch snap.symm.trans he⟩
  sinksWired := by simp [State.reset]

/-- Settles O10: what the host reaches writes decoders by RECV and MRECV only, and both keep rest. -/
theorem everyStepKeepsTheBlockAtRest : Obligations.EveryStepKeepsTheBlockAtRest := by
  unfold Obligations.EveryStepKeepsTheBlockAtRest
  intro s t rest h
  obtain ⟨-, rfl⟩ | ⟨r, pending, i, -, -, reach, h⟩ := step_next h
  · exact rest
  obtain ⟨hidden, receivers, multis, wired⟩ := rest
  have hw : i.writesDecoder = none := writesDecoder_of_not_internal (by simpa [hidden] using reach)
  obtain ⟨r, x, z, -, hx, rfl, rfl⟩ | ⟨m, u, z, -, hu, rfl, rfl⟩ | ⟨j, snk, snk', r, -, rfl⟩ | ⟨r, rfl⟩ :=
    exec_next_of_not_writesDecoder hw h
  · refine ⟨hidden, fun y hy => ?_, multis, wired⟩
    obtain hy | rfl := List.mem_or_eq_of_mem_set hy
    · exact receivers y hy
    · exact recvAll_keeps _ (P := Decoder.AtRest) (fun d p hd => (hd.step _ p).1) x.src x.dec (receivers x (List.mem_of_getElem? hx))
  · refine ⟨hidden, receivers, fun v hv => ?_, wired⟩
    obtain hv | rfl := List.mem_or_eq_of_mem_set hv
    · exact multis v hv
    · exact (multis u (List.mem_of_getElem? hu)).mrecv _
  · exact ⟨hidden, receivers, multis, fun x hx => by simpa using wired x hx⟩
  · exact ⟨hidden, receivers, multis, wired⟩

end Sys2Proof.Machine

/-! ### The single-sensor receiver: RECV (R61, R62, R220, R221, R224) -/

namespace Sys2Proof.Machine

/-- A pulse from a queue on which nothing lands any more. -/
theorem Source.nextPulse_queued (p : Pulse) (q : List Pulse) :
    Source.nextPulse { queue := p :: q, arrivals := [] } = (some p, { queue := q, arrivals := [] }) := by
  simp [Source.nextPulse]

/-- Settles O47: in each of the five cases the queue with what has landed is a list whose head is known. -/
theorem nextPulseIsFifo : Obligations.NextPulseIsFifo := by
  unfold Obligations.NextPulseIsFifo
  exact ⟨fun _ _ _ _ => rfl, Source.nextPulse_queued, fun _ _ _ => rfl, fun _ => rfl, rfl⟩

theorem State.decoder?_single {s : State} {r : Nat} {x : Receiver} (h : s.receivers[r]? = some x) :
    s.decoder? (.single r) = some x.dec := by
  simp [State.decoder?, h]

/-- The decoder step of a receiver is the operation of its decoder's protocol (R220). -/
theorem exec_step_of_proto {s : State} {d : DecRef} {x : Decoder} (h : s.decoder? d = some x) (p : Pulse) :
    exec (match x.proto with | .tag => .tdec d p | .crclp => .cdec d p) s =
      .next (s.stepped d (x.step s.params p).dec (x.step s.params p).packet (x.step s.params p).events) := by
  cases hp : x.proto with
  | tag => rw [Decoder.step_tag hp]; exact exec_tdec h hp p
  | crclp => rw [Decoder.step_crclp hp]; exact exec_cdec h hp p

/-- Settles O48: the loop by its three cases, written into the receiver. -/
theorem recvFollowsItsLoop : Obligations.RecvFollowsItsLoop := by
  unfold Obligations.RecvFollowsItsLoop
  intro s r x h
  have run : exec (.recv r) s = _ := execRecv_some h
  refine ⟨Instr.hasCode_of_encode rfl rfl, ⟨_, run⟩, exec_step_of_proto (State.decoder?_single h), fun src' absent => ?_,
    fun p src' pulled => ⟨fun k hk => ?_, fun hk t z ht hz => ?_⟩⟩
  · rw [run, recvAll_absent s.params x.dec absent]
  · rw [run, recvAll_packet s.params pulled hk]
  · have there : (s.receivers.set r ⟨src', (x.dec.step s.params p).dec⟩)[r]? = some ⟨src', (x.dec.step s.params p).dec⟩ :=
      List.getElem?_set_self (List.getElem?_eq_some_iff.mp h).1
    obtain rfl := Host.Outcome.next.inj ((execRecv_some there).symm.trans ht)
    obtain rfl := Option.some.inj hz
    rw [run, recvAll_next s.params pulled hk]
    simp only [State.respond, List.set_set]

/-- RECV without a packet leaves nothing queued (R224). -/
theorem recvAll_drains (c : Params) : ∀ src d, (recvAll c src d).packet = none → (recvAll c src d).src.queue = [] := by
  refine recvAll_induction c (motive := fun _ _ z => z.packet = none → z.src.queue = []) ?absent ?packet ?next
  case absent =>
    intro src src' d absent _
    obtain ⟨-, rfl⟩ := Source.nextPulse_none absent
    rfl
  case packet => exact fun _ _ _ _ _ _ _ some => nomatch some
  case next => exact fun _ _ _ _ _ _ _ rest => rest

/-- Settles O49: the loop ends at an empty queue or with a packet, and RECV writes the receiver and the answer. -/
theorem recvDrainsItsSourceOrReturns : Obligations.RecvDrainsItsSourceOrReturns := by
  unfold Obligations.RecvDrainsItsSourceOrReturns
  intro s t r h
  obtain ⟨x, z, hx, rfl, rfl⟩ := execRecv_next h
  refine ⟨fun answer ha none y hy => ?_, fun d hd => ⟨?_, ?_⟩, rfl, rfl, rfl, rfl, rfl⟩
  · obtain rfl := Option.some.inj ha
    have there := List.getElem?_set_self (a := (⟨(recvAll s.params x.src x.dec).src, (recvAll s.params x.src x.dec).dec⟩ : Receiver))
      (List.getElem?_eq_some_iff.mp hx).1
    obtain rfl := Option.some.inj (there.symm.trans hy)
    exact recvAll_drains s.params x.src x.dec (Result.packet.inj none)
  · rw [State.respond_decoder?, State.setReceiver_decoder?_ne _ hd]
  · rw [State.respond_source?, State.setReceiver_source?_ne _ hd]

/-! #### A frame that is queued (R172) -/

/-- A Tag step emits no event (R273). -/
theorem Decoder.tdec_events (x : Decoder) (p : Pulse) : (x.tdec p).events = [] := by
  obtain ⟨e, -, -, eq⟩ | ⟨e, b, -, -, -, -, eq⟩ | ⟨byte, -, -, eq⟩ | ⟨byte, -, -, -, eq⟩ | ⟨byte, -, eq⟩ | eq :=
    x.tdec_cases p <;> rw [eq] <;> rfl

/-- RECV on queued pulses of which the last gives a Tag decoder its first packet. -/
theorem recvAll_of_feed (c : Params) {k : Packet} {y : Decoder} {behind : List Pulse} {n : Nat} {ps : List Pulse} {x : Decoder}
    (tag : x.proto = .tag) (hn : ps.length = n + 1) (fed : x.feed c ps = (y, List.replicate n none ++ [some k])) :
    recvAll c { queue := ps ++ behind, arrivals := [] } x =
      { src := { queue := behind, arrivals := [] }, dec := y, packet := some k, events := [] } := by
  induction n generalizing x ps with
  | zero =>
    obtain ⟨p, rfl⟩ := List.length_eq_one_iff.mp hn
    obtain ⟨dec, packet⟩ : (x.step c p).dec = y ∧ (x.step c p).packet = some k := by
      simpa [Decoder.feed_cons, Decoder.feed_nil] using fed
    rw [List.singleton_append, recvAll_packet c (Source.nextPulse_queued p behind) packet, dec, Decoder.step_tag tag, Decoder.tdec_events]
  | succ n ih =>
    obtain ⟨p, ps, rfl⟩ := List.exists_cons_of_length_eq_add_one hn
    have sameProto : (x.step c p).dec.proto = .tag := (congrArg Prod.fst (x.step_configuration c p)).trans tag
    obtain ⟨dec, packet, rest⟩ : ((x.step c p).dec.feed c ps).1 = y ∧ (x.step c p).packet = none ∧
        ((x.step c p).dec.feed c ps).2 = List.replicate n none ++ [some k] := by
      simpa [Decoder.feed_cons, List.replicate_succ] using fed
    rw [List.cons_append, recvAll_next c (Source.nextPulse_queued p _) packet, ih sameProto (Nat.succ.inj hn) (Prod.ext dec rest), Decoder.step_tag tag,
      Decoder.tdec_events]
    rfl

theorem deviation_self (p : Pulse) : deviation p p = 0 := by simp [deviation]

theorem worstDeviation_self (ps : List Pulse) : worstDeviation ps ps = 0 := by
  induction ps with
  | nil => rfl
  | cons p ps ih => simp [deviation_self, ih]

/-- Settles O50: the nominal pulses are inside their windows with deviation 0, so the frame decodes. -/
theorem recvReturnsTheQueuedFrame : Obligations.RecvReturnsTheQueuedFrame := by
  unfold Obligations.RecvReturnsTheQueuedFrame
  intro s r x b behind h rest tag hx src
  have pos : 0 < x.dec.eth := by rw [rest.tag_eth tag]; decide
  have near : Near x.dec.eth (tagEncode b) (tagEncode b) := List.forall₂_same.mpr fun p _ => by rwa [deviation_self]
  have fed := tagFrameWithinTheWindowsDecodes s.params x.dec b (tagEncode b) rest tag hx near
  rw [worstDeviation_self] at fed
  have run : exec (.recv r) s = _ := execRecv_some h
  rw [run, src, recvAll_of_feed s.params tag rfl fed]

end Sys2Proof.Machine

/-! ### The multi-sensor receiver: MRECV and the arbiter (R230 to R237, R240) -/

namespace Sys2Proof.Machine

/-! #### A round (R231) -/

theorem any_packet_eq_false {qs : List Pull} (h : ∀ q ∈ qs, q.packet = none) : qs.any (fun q => q.packet.isSome) = false :=
  List.any_eq_false.mpr fun q hq => by simp [h q hq]

theorem any_packet_eq_true {c : Params} {xs : List Sensor} (h : ∃ x ∈ xs, (x.pull c).packet.isSome = true) :
    (xs.map (Sensor.pull c)).any (fun q => q.packet.isSome) = true := by
  simpa using h

theorem roundOf_eq (c : Params) (xs : List Sensor) : roundOf c xs = (xs.map (Sensor.pull c)).map Pull.sensor := by
  rw [List.map_map]; rfl

/-- Settles O51: the loop by the cases of its first round, written into the multi-sensor receiver. -/
theorem mrecvFollowsItsRounds : Obligations.MrecvFollowsItsRounds := by
  unfold Obligations.MrecvFollowsItsRounds
  intro s m u h
  have run : exec (.mrecv m) s = _ := execMrecv_some h
  refine ⟨Instr.hasCode_of_encode rfl rfl, ⟨_, run⟩, fun x src' absent => ?_, fun x p src' pulled => ?_, fun silent idle => ?_,
    fun silent pulled t z ht hz => ?_⟩
  · simp only [Sensor.pull, absent]
  · simp only [Sensor.pull, pulled]
  · have nobody : (u.sensors.map (Sensor.pull s.params)).any Pull.got = false := List.any_eq_false.mpr fun q hq => by simp [idle q hq]
    rw [run, mrecvAll_absent s.params u.sensors (any_packet_eq_false silent) nobody]
  · have there : (s.multis.set m ⟨(u.sensors.map (Sensor.pull s.params)).map Pull.sensor⟩)[m]? = some ⟨_⟩ :=
      List.getElem?_set_self (List.getElem?_eq_some_iff.mp h).1
    obtain rfl := Host.Outcome.next.inj ((execMrecv_some there).symm.trans ht)
    obtain rfl := Option.some.inj hz
    rw [run, mrecvAll_next s.params u.sensors (any_packet_eq_false silent) (List.any_eq_true.mpr pulled)]
    simp only [State.respond, List.set_set, roundEvents]

/-! #### A completing round (R232 to R235) -/

/-- What a completing round captures of a sensor that completed. -/
theorem Sensor.arbitrated_snap_of_packet {c : Params} {x : Sensor} (h : (x.pull c).packet.isSome = true) :
    ∃ v, (x.pull c).sensor.dec.lasterr = some v ∧ (x.arbitrated c).snap = some { margin := v, strength := strengthOf x.dec.eth v } := by
  obtain ⟨v, recorded⟩ := Sensor.pull_packet_lasterr h
  have eth : (x.pull c).sensor.dec.eth = x.dec.eth := congrArg Prod.snd (x.pull_configuration c)
  exact ⟨v, recorded, by rw [Sensor.arbitrated_snap, if_pos h, Decoder.snapEntry, recorded, eth]; rfl⟩

theorem Sensor.arbitrated_snap_of_none {c : Params} {x : Sensor} (h : (x.pull c).packet = none) : (x.arbitrated c).snap = none := by
  rw [Sensor.arbitrated_snap, h]; rfl

/-- An entry that a completing round captures is that of a sensor that completed. -/
theorem Sensor.packet_of_arbitrated_snap {c : Params} {x : Sensor} {e : SnapEntry} (h : (x.arbitrated c).snap = some e) :
    ∃ k, (x.pull c).packet = some k := by
  cases hk : (x.pull c).packet with
  | none => cases (Sensor.arbitrated_snap_of_none hk).symm.trans h
  | some k => exact ⟨k, rfl⟩

/-- The snapshot of a completing round. -/
def capturedSnapshot (c : Params) (xs : List Sensor) : List (Option SnapEntry) := xs.map fun x => (x.arbitrated c).snap

theorem capturedSnapshot_present {c : Params} {xs : List Sensor} {i : Nat} {e : SnapEntry} :
    (capturedSnapshot c xs)[i]? = some (some e) ↔ ∃ x, xs[i]? = some x ∧ (x.arbitrated c).snap = some e := by
  simp [capturedSnapshot]

theorem arbitrate_packet (c : Params) (xs : List Sensor) :
    (arbitrate (xs.map (Sensor.pull c))).packet =
      (bestOf (capturedSnapshot c xs)).bind fun w => ((xs.map (Sensor.pull c))[w.1]?).bind Pull.packet := by
  have snapshot : ((xs.map (Sensor.pull c)).map Pull.capture).map Sensor.snap = capturedSnapshot c xs := by
    rw [List.map_map, List.map_map]; rfl
  rw [arbitrate, snapshot]

/-- The winner of a completing round: the best entry of the snapshot it captures, and the packet of that entry's sensor. -/
theorem arbitrate_winner {c : Params} {xs : List Sensor} (h : (xs.map (Sensor.pull c)).any (fun q => q.packet.isSome) = true) :
    ∃ w e x k, bestOf (capturedSnapshot c xs) = some (w, e) ∧ xs[w]? = some x ∧ (x.arbitrated c).snap = some e ∧
      (x.pull c).packet = some k ∧ (arbitrate (xs.map (Sensor.pull c))).packet = some k := by
  obtain ⟨y, hy, completed⟩ : ∃ y ∈ xs, (y.pull c).packet.isSome = true := by simpa using h
  obtain ⟨i, hi⟩ := List.mem_iff_getElem?.mp hy
  obtain ⟨v, -, captured⟩ := Sensor.arbitrated_snap_of_packet completed
  have best := bestOf_isBest (capturedSnapshot c xs)
  rw [arbitrate_packet]
  cases hb : bestOf (capturedSnapshot c xs) with
  | none =>
    rw [hb] at best
    exact absurd (capturedSnapshot_present.mpr ⟨y, hi, captured⟩) (best i _)
  | some b =>
    obtain ⟨w, e⟩ := b
    rw [hb] at best
    obtain ⟨x, hx, he⟩ := capturedSnapshot_present.mp best.1
    obtain ⟨k, hk⟩ := Sensor.packet_of_arbitrated_snap he
    exact ⟨w, e, x, k, rfl, hx, he, hk, by simp [hx, hk]⟩

/-- Settles O52: the winner is the best entry, and an entry is captured exactly of a completed sensor. -/
theorem completingRoundArbitrates : Obligations.CompletingRoundArbitrates := by
  unfold Obligations.CompletingRoundArbitrates
  intro s m u h completing
  have completes := any_packet_eq_true completing
  obtain ⟨w, e, xw, k, hbest, hxw, he, hk, packet⟩ := arbitrate_winner completes
  obtain ⟨mw, recorded, entry⟩ := Sensor.arbitrated_snap_of_packet (c := s.params) (x := xw) (by rw [hk]; rfl)
  have best := bestOf_isBest (capturedSnapshot s.params u.sensors)
  rw [hbest] at best
  obtain rfl := Option.some.inj (entry.symm.trans he)
  have run : exec (.mrecv m) s = _ := execMrecv_some h
  rw [mrecvAll_complete s.params u.sensors completes, packet, arbitrate_sensors] at run
  refine ⟨_, ⟨u.sensors.map (Sensor.arbitrated s.params)⟩, w, xw, k, mw, run, rfl, by simp, ?_, hxw, hk, recorded, fun i x hx =>
    ⟨x.arbitrated s.params, by simp [hx], rfl, rfl, Sensor.arbitrated_snap_of_none, fun completed => ?_⟩⟩
  · have events : (arbitrate (u.sensors.map (Sensor.pull s.params))).events = u.sensors.flatMap fun x => (x.pull s.params).events :=
      List.flatMap_map ..
    rw [State.respond_response, events]
    rfl
  · obtain ⟨v, hv, captured⟩ := Sensor.arbitrated_snap_of_packet completed
    obtain ⟨le, before⟩ := best.2 i _ (capturedSnapshot_present.mpr ⟨x, hx, captured⟩)
    exact ⟨v, hv, captured, le, before⟩

/-- The best entry after MRECV returned a packet is that of the sensor that returned it, in the first round that completes. -/
theorem mrecvAll_best (c : Params) : ∀ xs k, (mrecvAll c xs).packet = some k →
    ∃ n w e x, bestOf ((mrecvAll c xs).sensors.map Sensor.snap) = some (w, e) ∧ ((roundOf c)^[n] xs)[w]? = some x ∧
      (x.pull c).packet = some k ∧ ∀ j < n, ∀ y ∈ (roundOf c)^[j] xs, (y.pull c).packet = none := by
  refine mrecvAll_induction c (motive := fun xs z => ∀ k, z.packet = some k →
    ∃ n w e x, bestOf (z.sensors.map Sensor.snap) = some (w, e) ∧ ((roundOf c)^[n] xs)[w]? = some x ∧
      (x.pull c).packet = some k ∧ ∀ j < n, ∀ y ∈ (roundOf c)^[j] xs, (y.pull c).packet = none) ?complete ?absent ?next
  case complete =>
    intro xs completes k returned
    obtain ⟨w, e, x, k', best, hx, -, hk, packet⟩ := arbitrate_winner completes
    obtain rfl := Option.some.inj (packet.symm.trans returned)
    refine ⟨0, w, e, x, ?_, hx, hk, fun j hj => absurd hj (Nat.not_lt_zero j)⟩
    rw [arbitrate_sensors, List.map_map]
    exact best
  case absent => exact fun _ _ _ _ returned => nomatch returned
  case next =>
    intro xs z silent _ rest k returned
    obtain ⟨n, w, e, x, best, hx, hk, before⟩ := rest k returned
    rw [← roundOf_eq] at hx before
    refine ⟨n + 1, w, e, x, best, hx, hk, fun j hj y hy => ?_⟩
    cases j with
    | zero => simpa using List.any_eq_false.mp silent (y.pull c) (List.mem_map_of_mem hy)
    | succ j => exact before j (Nat.lt_of_succ_lt_succ hj) y hy

/-- Settles O58: QBEST reads the snapshot that the completing round captured. -/
theorem qbestNamesTheReturnedSensor : Obligations.QbestNamesTheReturnedSensor := by
  unfold Obligations.QbestNamesTheReturnedSensor
  intro s t m u z k h ht hz returned
  obtain rfl := Host.Outcome.next.inj ((execMrecv_some h).symm.trans ht)
  obtain rfl := Option.some.inj hz
  obtain ⟨n, w, e, x, best, hx, hk, before⟩ := mrecvAll_best s.params u.sensors k (Result.packet.inj returned)
  refine ⟨n, w, x, ?_, hx, hk, before⟩
  rw [exec_qbest (List.getElem?_set_self (List.getElem?_eq_some_iff.mp h).1), Multi.snapshot, best]
  rfl

/-- Settles O54: MRECV writes one multi-sensor receiver and the answer. -/
theorem mrecvFrame : Obligations.MrecvFrame := by
  unfold Obligations.MrecvFrame
  intro s t m h
  obtain ⟨u, z, -, -, rfl⟩ := execMrecv_next h
  exact ⟨fun m' hm => List.getElem?_set_ne (Ne.symm hm), rfl, rfl, rfl, rfl, rfl⟩

/-! #### A silent sensor (R237) -/

/-- The index of an entry once one more has been inserted at position `n`. -/
def shiftIndex (n i : Nat) : Nat := if i < n then i else i + 1

theorem getElem?_shiftIndex {α : Type} (before after : List α) (a : α) (i : Nat) :
    (before ++ a :: after)[shiftIndex before.length i]? = (before ++ after)[i]? := by
  unfold shiftIndex
  split_ifs with h
  · rw [List.getElem?_append_left h, List.getElem?_append_left h]
  · rw [List.getElem?_append_right (by omega), List.getElem?_append_right (by omega), Nat.sub_add_comm (by omega), List.getElem?_cons_succ]

/-- Every index but the inserted one is a shifted one. -/
theorem eq_shiftIndex {n j : Nat} (h : j ≠ n) : ∃ i, j = shiftIndex n i := by
  obtain lt | gt := Nat.lt_or_gt_of_ne h
  · exact ⟨j, (if_pos lt).symm⟩
  · exact ⟨j - 1, by rw [shiftIndex, if_neg (by omega)]; omega⟩

theorem shiftIndex_lt_iff {n i j : Nat} : shiftIndex n i < shiftIndex n j ↔ i < j := by
  unfold shiftIndex; split_ifs <;> omega

/-- An absent entry, inserted anywhere, does not change which entry is best. -/
theorem bestOf_insert_none (before after : List (Option SnapEntry)) :
    bestOf (before ++ none :: after) = (bestOf (before ++ after)).map fun b => (shiftIndex before.length b.1, b.2) := by
  refine (bestOf_isBest _).unique ?_
  have best := bestOf_isBest (before ++ after)
  have old {j : Nat} {f : SnapEntry} (h : (before ++ none :: after)[j]? = some (some f)) :
      ∃ i, j = shiftIndex before.length i ∧ (before ++ after)[i]? = some (some f) := by
    obtain ⟨i, rfl⟩ := eq_shiftIndex (n := before.length) (j := j) (by rintro rfl; simp at h)
    exact ⟨i, rfl, getElem?_shiftIndex before after none i ▸ h⟩
  cases hb : bestOf (before ++ after) with
  | none =>
    rw [hb] at best
    intro j f hj
    obtain ⟨i, -, hi⟩ := old hj
    exact best i f hi
  | some b =>
    rw [hb] at best
    obtain ⟨present, lowest⟩ := best
    refine ⟨(getElem?_shiftIndex before after none b.1).trans present, fun j f hj => ?_⟩
    obtain ⟨i, rfl, hi⟩ := old hj
    obtain ⟨le, earlier⟩ := lowest i f hi
    exact ⟨le, fun lt => earlier (shiftIndex_lt_iff.mp lt)⟩

/-- A silent sensor is skipped in every round, and stays silent. -/
theorem Sensor.silent.pull {z : Sensor} (h : z.silent) (c : Params) :
    (z.pull c).got = false ∧ (z.pull c).packet = none ∧ (z.pull c).events = [] ∧ (z.pull c).sensor.silent := by
  obtain ⟨queue, landed⟩ := h
  have nothing : z.src.queue ++ z.src.arrivals.headD [] = [] := by
    rw [queue, List.nil_append]
    cases ha : z.src.arrivals with
    | nil => rfl
    | cons now later => exact landed now (by simp [ha])
  have absent : z.src.nextPulse = (none, { queue := [], arrivals := z.src.arrivals.tail }) := by
    unfold Source.nextPulse
    rw [nothing]
  simp only [Sensor.pull, absent]
  exact ⟨trivial, trivial, trivial, rfl, fun now hnow => landed now (List.mem_of_mem_tail hnow)⟩

/-- A silent sensor is reset by a completing round, gets no snapshot entry, and stays silent. -/
theorem Sensor.silent.arbitrated {z : Sensor} (h : z.silent) (c : Params) : (z.arbitrated c).silent := by
  obtain ⟨-, -, -, still⟩ := h.pull c
  exact still

/-- A completing round with a silent sensor among the others. -/
theorem arbitrate_insert_silent (c : Params) (before after : List Sensor) {z : Sensor} (h : z.silent) :
    arbitrate ((before ++ z :: after).map (Sensor.pull c)) =
      { arbitrate ((before ++ after).map (Sensor.pull c)) with
        sensors := before.map (Sensor.arbitrated c) ++ z.arbitrated c :: after.map (Sensor.arbitrated c) } := by
  obtain ⟨-, packet, events, -⟩ := h.pull c
  have sensors : (arbitrate ((before ++ z :: after).map (Sensor.pull c))).sensors =
      before.map (Sensor.arbitrated c) ++ z.arbitrated c :: after.map (Sensor.arbitrated c) := by
    rw [arbitrate_sensors, List.map_append, List.map_cons]
  have snapshot : capturedSnapshot c (before ++ z :: after) = capturedSnapshot c before ++ none :: capturedSnapshot c after := by
    simp only [capturedSnapshot, List.map_append, List.map_cons, Sensor.arbitrated_snap_of_none packet]
  have winner : (arbitrate ((before ++ z :: after).map (Sensor.pull c))).packet =
      (arbitrate ((before ++ after).map (Sensor.pull c))).packet := by
    rw [arbitrate_packet, arbitrate_packet, snapshot, bestOf_insert_none, capturedSnapshot, capturedSnapshot, capturedSnapshot,
      List.length_map, ← List.map_append, Option.bind_map]
    congr 1
    funext b
    have place := getElem?_shiftIndex (before.map (Sensor.pull c)) (after.map (Sensor.pull c)) (z.pull c) b.1
    rw [List.length_map] at place
    simp only [Function.comp, List.map_append, List.map_cons, place]
  have emitted : (arbitrate ((before ++ z :: after).map (Sensor.pull c))).events =
      (arbitrate ((before ++ after).map (Sensor.pull c))).events := by
    simp [arbitrate, roundEvents, events]
  dsimp only
  rw [← sensors, ← winner, ← emitted]

/-- MRECV with a silent sensor among the others: the same packet and events, and the other sensors as without it. -/
theorem mrecvAll_insert_silent (c : Params) : ∀ xs before after z, xs = before ++ after → z.silent →
    ∃ before' after' z', before'.length = before.length ∧ (mrecvAll c xs).sensors = before' ++ after' ∧ z'.silent ∧
      mrecvAll c (before ++ z :: after) = { mrecvAll c xs with sensors := before' ++ z' :: after' } := by
  have round {before after : List Sensor} {z : Sensor} (hz : z.silent) {f : Pull → Bool} (hf : f (z.pull c) = false) :
      ((before ++ z :: after).map (Sensor.pull c)).any f = ((before ++ after).map (Sensor.pull c)).any f := by
    simp [hf]
  refine mrecvAll_induction c (motive := fun xs r => ∀ before after z, xs = before ++ after → z.silent →
    ∃ before' after' z', before'.length = before.length ∧ r.sensors = before' ++ after' ∧ z'.silent ∧
      mrecvAll c (before ++ z :: after) = { r with sensors := before' ++ z' :: after' }) ?complete ?absent ?next
  case complete =>
    rintro _ completes before after z rfl hz
    refine ⟨before.map (Sensor.arbitrated c), after.map (Sensor.arbitrated c), z.arbitrated c, by simp,
      by rw [arbitrate_sensors, List.map_append], hz.arbitrated c, ?_⟩
    obtain ⟨-, packet, -⟩ := hz.pull c
    rw [mrecvAll_complete c _ ((round hz (by simp [packet])).trans completes), arbitrate_insert_silent c before after hz]
  case absent =>
    rintro _ silent idle before after z rfl hz
    obtain ⟨got, packet, -, still⟩ := hz.pull c
    refine ⟨roundOf c before, roundOf c after, (z.pull c).sensor, by simp [roundOf], by rw [← roundOf_eq]; simp [roundOf], still, ?_⟩
    rw [mrecvAll_absent c _ ((round hz (by simp [packet])).trans silent) ((round hz got).trans idle), ← roundOf_eq]
    simp [roundOf]
  case next =>
    rintro _ r silent pulled rest before after z rfl hz
    obtain ⟨got, packet, events, still⟩ := hz.pull c
    obtain ⟨before', after', z', len, sensors, still', eq⟩ := rest (roundOf c before) (roundOf c after) (z.pull c).sensor
      (by rw [← roundOf_eq]; simp [roundOf]) still
    have inserted : roundOf c (before ++ z :: after) = roundOf c before ++ (z.pull c).sensor :: roundOf c after := by simp [roundOf]
    refine ⟨before', after', z', by simpa [roundOf] using len, sensors, still', ?_⟩
    rw [mrecvAll_next c _ ((round hz (by simp [packet])).trans silent) ((round hz got).trans pulled), ← roundOf_eq, inserted, eq]
    simp [roundEvents, events]

/-- Settles O53: MRECV runs on the other sensors as without the silent one. -/
theorem silentSensorNeverAffectsArbitration : Obligations.SilentSensorNeverAffectsArbitration := by
  unfold Obligations.SilentSensorNeverAffectsArbitration
  intro s t m before after z h hz ht
  obtain rfl := Host.Outcome.next.inj ((execMrecv_some h).symm.trans ht)
  obtain ⟨hlt, -⟩ := List.getElem?_eq_some_iff.mp h
  obtain ⟨before', after', z', len, sensors, still, eq⟩ := mrecvAll_insert_silent s.params (before ++ after) before after z rfl hz
  have there : (s.multis.set m ⟨before ++ z :: after⟩)[m]? = some ⟨before ++ z :: after⟩ := List.getElem?_set_self hlt
  refine ⟨_, before', after', z', execMrecv_some there, ?_, len, ?_, ?_, still⟩
  · simp only [State.respond_response, eq]
  · rw [State.respond_multis, List.getElem?_set_self hlt, sensors]
  · rw [State.respond_multis, List.set_set, List.getElem?_set_self hlt, eq]

end Sys2Proof.Machine

/-! ### The transmitter: SEND (R260 to R262) -/

namespace Sys2Proof.Machine

/-- SEND of a byte on a TAG transmitter: one call, and what the sink answers. -/
theorem execSend_tag {s : State} {t : Nat} {x : Transmitter} {b : Byte} {override : Option Nat} {snk : Sink}
    (h : s.transmitters[t]? = some x) (hp : x.proto = .tag) (hk : s.sinks[override.getD x.sink]? = some snk) :
    exec (.send t (.byte b) override) s =
      .next (({ s with sinks := s.sinks.set (override.getD x.sink) (snk.take (tagEncode b)) }).respond
        (sendResult (snk.nextAnswer (override.getD x.sink))) []) := by
  simp [exec, execSend, h, hp, encodeData, hk]

/-- Settles O59: the listed answer is the sink's next one, and without a list the answer is one of the two. -/
theorem sendMakesOneSinkCall : Obligations.SendMakesOneSinkCall := by
  unfold Obligations.SendMakesOneSinkCall
  intro s t x b override snk h hp hk
  have run := execSend_tag (b := b) h hp hk
  refine ⟨Instr.hasCode_of_encode rfl rfl, ⟨snk.nextAnswer (override.getD x.sink), ?_⟩, fun later listed => ?_, fun later listed => ?_⟩
  · rw [run]
    cases snk.nextAnswer (override.getD x.sink) <;> rfl
  · have answer : snk.nextAnswer (override.getD x.sink) = .success := by rw [Sink.nextAnswer, listed]
    rw [run, answer]
    rfl
  · have answer : snk.nextAnswer (override.getD x.sink) = .failure := by rw [Sink.nextAnswer, listed]
    rw [run, answer]
    rfl

/-- Settles O60: the encoder has no CRCLP case, whatever the data. -/
theorem sendOnCrclpIsUnencodable : Obligations.SendOnCrclpIsUnencodable := by
  unfold Obligations.SendOnCrclpIsUnencodable
  intro s t x data override h hp
  simp [exec, execSend, h, hp, encodeData, State.raise]

end Sys2Proof.Machine
